-- ==== Sys2Proof/Word.lean ====
section
/-! DEFINITION. The two word types of the block (00_scope.md R8): a byte, and the 32 bits of an index, a length
and a register of the consumer port. -/

namespace Sys2Proof

/-- A byte, an 8-bit unsigned value (R8). -/
abbrev Byte := BitVec 8

/-- A 32-bit register or operand (R24, R27, R36, R75). -/
abbrev Word := BitVec 32

end Sys2Proof
end

