-- ==== Sys2Proof/Config.lean ====
section
/-! DEFINITION. The parameters a block is constructed with (00_scope.md R6), their well-formedness (R7), and the
free values: what the spec says exists and gives no value for. -/

namespace Sys2Proof

/-- The configuration of R6, fixed at construction. -/
structure Config where
  /-- `P_END`, the delimiter. -/
  endByte : Byte
  /-- `P_ESC`, the escape-introducer. -/
  escByte : Byte
  /-- `P_ESC_END`, the substitute for a literal END. -/
  escEnd : Byte
  /-- `P_ESC_ESC`, the substitute for a literal ESC. -/
  escEsc : Byte
  /-- `P_DIAG_MARKER`. -/
  diagMarker : Byte
  /-- `P_CFG_MARKER`. -/
  cfgMarker : Byte
  /-- `P_CFG_CAP`, the cells of the configuration buffer. -/
  cfgCap : Nat
  /-- `P_IP_CAP`, the cells of the IP buffer. -/
  ipCap : Nat
  /-- `P_DELIVER_ERRORED`. -/
  deliverErrored : Bool
  /-- `P_NPROD`, the number of producers. -/
  nprod : Nat
  deriving DecidableEq, Repr

namespace Config

/-- WF1 (R7): END, ESC and the two markers are pairwise distinct. -/
def wf1 (c : Config) : Bool :=
  decide (c.endByte ≠ c.escByte) && decide (c.endByte ≠ c.diagMarker) && decide (c.endByte ≠ c.cfgMarker) &&
    decide (c.escByte ≠ c.diagMarker) && decide (c.escByte ≠ c.cfgMarker) && decide (c.diagMarker ≠ c.cfgMarker)

/-- WF2 (R7): the two substitutes are distinct. -/
def wf2 (c : Config) : Bool := decide (c.escEnd ≠ c.escEsc)

/-- WF3 (R7): no substitute equals END or ESC. -/
def wf3 (c : Config) : Bool :=
  decide (c.escEnd ≠ c.endByte) && decide (c.escEnd ≠ c.escByte) &&
    decide (c.escEsc ≠ c.endByte) && decide (c.escEsc ≠ c.escByte)

/-- The ranges R6 gives the numeric parameters: both capacities in `1..2^32-1`, at least one producer. -/
def inRange (c : Config) : Bool :=
  decide (1 ≤ c.cfgCap) && decide (c.cfgCap < 2 ^ 32) && decide (1 ≤ c.ipCap) && decide (c.ipCap < 2 ^ 32) &&
    decide (1 ≤ c.nprod)

/-- A configuration a block may be constructed with (R6, R7). -/
def wf (c : Config) : Bool := c.wf1 && c.wf2 && c.wf3 && c.inRange

/-- The values this spec takes (R6, R72). OPEN parameters: the diagnostic marker and the substitutes at the spec's
defaults (PRESUMED, log 2); the capacities and the producers at the values 95_test_vectors.md uses (DESIGN CHOICE,
log 1). Statements are over every configuration; this one is State.reset's. -/
def spec : Config where
  endByte := 0xC0
  escByte := 0xDB
  escEnd := 0xDC
  escEsc := 0xDD
  diagMarker := 0x0A
  cfgMarker := 0xA9
  cfgCap := 8
  ipCap := 8
  deliverErrored := false
  nprod := 2

/-- FREE VALUE (I19 "any value", log 8): what cell `i` of the configuration buffer holds before it is written. -/
opaque unwrittenCfgByte : Nat → Byte

/-- FREE VALUE (I19 "any value", log 8): what cell `i` of the IP buffer holds before it is written. -/
opaque unwrittenIpByte : Nat → Byte

/-- FREE VALUE (log 9): what the producer's memory holds at index `i`, past the end of its payload. -/
opaque beyondPayload : Nat → Byte

end Config

end Sys2Proof
end

