-- ==== Sys2Proof/Syntax.lean ====
section
/-! DEFINITION. The names the rules use (frame types, states, phases, error sets, events, agents), the words of the four
formats (30_encoding.md R73 to R76), the actions each map selects, and `Instr`: one constructor for each row of
spec/opcode_table.json. -/

namespace Sys2Proof

/-- `BUFT`, the frame types with an owned buffer (R8). -/
inductive BufType where
  | cfg
  | ip
  deriving DecidableEq, Repr

/-- A frame type (R8): `DIAG`, or one of `BUFT`. -/
inductive FrameType where
  | diag
  | buf (t : BufType)
  deriving DecidableEq, Repr

/-- The eight codes of `DSTATE` (R21): IDLE, the unused code `0b001`, `PS(t)` and `XS(t)`. -/
inductive DState where
  | idle
  | unused
  | pay (t : FrameType)
  | esc (t : FrameType)
  deriving DecidableEq, Repr

/-- The frame type an open frame has in a decoder state, `DSTATE[2:1]` (R21). -/
def DState.frame : DState → Option FrameType
  | .idle => none
  | .unused => none
  | .pay t => some t
  | .esc t => some t

/-- The phases of the transmit sequencer (R31). -/
inductive TxPhase where
  | idle
  | mark
  | body
  | sub
  deriving DecidableEq, Repr

/-- An error set (R8, R23): bit 0 `ESC`, bit 1 `OVF`, bit 2 `BUSY`. -/
structure ErrorSet where
  esc : Bool
  ovf : Bool
  busy : Bool
  deriving DecidableEq, Repr

namespace ErrorSet

/-- `0b000`, the source's `None`. -/
def empty : ErrorSet := { esc := false, ovf := false, busy := false }

/-- `0b100`, exactly `BUSY`. -/
def onlyBusy : ErrorSet := { esc := false, ovf := false, busy := true }

end ErrorSet

/-- An entry of the `EV` stream (R32). -/
inductive Event where
  | beginFrame (t : FrameType)
  | writeByte (t : FrameType) (b : Byte)
  | endFrame (t : FrameType) (e : ErrorSet)
  deriving DecidableEq, Repr

/-- A PORT word (R75): `OP[3:0]` and the operand lines beside it. -/
structure PortWord where
  op : BitVec 4
  b : Byte := 0
  t : BitVec 2 := 0
  i : Word := 0
  n : Byte := 0
  p : Nat := 0
  payload : List Byte := []
  deriving DecidableEq, Repr

/-- A word of one of the four formats. -/
inductive CodeWord where
  | dec (w : BitVec 11)
  | enc (w : BitVec 13)
  | ev (w : BitVec 13)
  | port (w : PortWord)
  deriving DecidableEq, Repr

/-- A word that reaches the block from outside and waits to be taken: a PORT word, or an event for a handler modelled on
its own (R82; log 6). DEC and ENC words are formed by the block and never presented. -/
inductive Presented where
  | port (w : PortWord)
  | event (w : BitVec 13)
  deriving DecidableEq, Repr

/-- The format a presented word is read in. -/
def Presented.code : Presented → CodeWord
  | .port w => .port w
  | .event w => .ev w

/-- The agents that take steps (R213). -/
inductive Agent where
  | byteSource
  | consumer (t : BufType)
  | producer (p : Nat)
  | arbiter
  | byteSink
  deriving DecidableEq, Repr

/-- The eleven actions of the DEC map (R79), with the fields of the word each row leaves open. -/
inductive DecAction where
  | badstate (b : Byte)
  | idleEnd
  | idleDiag
  | idleCfg
  | idleOther (b : Byte)
  | payEsc (t : FrameType)
  | payEnd (t : FrameType)
  | payLit (t : FrameType) (b : Byte)
  | escSubend (t : FrameType)
  | escSubesc (t : FrameType)
  | escBad (t : FrameType) (b : Byte)
  deriving DecidableEq, Repr

/-- The nine actions of the ENC map (R80), with the fields of the word each row leaves open. -/
inductive EncAction where
  | idle (t : Option FrameType) (a : Bool) (c : Byte)
  | badstateNotype (ph : TxPhase) (a : Bool) (c : Byte)
  | badstateMarkip (a : Bool) (c : Byte)
  | mark (t : FrameType) (a : Bool) (c : Byte)
  | sub (t : FrameType) (a : Bool) (c : Byte)
  | close (t : FrameType) (c : Byte)
  | bodyEnd (t : FrameType)
  | bodyEsc (t : FrameType)
  | bodyLit (t : FrameType) (c : Byte)
  deriving DecidableEq, Repr

/-- The six handler events of the EV map (R81). An END event carries no error set: the accumulator reports its own. -/
inductive EvAction where
  | beginDiag
  | beginBuf (t : BufType)
  | writeDiag (b : Byte)
  | writeBuf (t : BufType) (b : Byte)
  | endDiag
  | endBuf (t : BufType)
  deriving DecidableEq, Repr

/-- One constructor for each row of spec/opcode_table.json. -/
inductive Instr where
  -- DEC (R79)
  | rxBadstate (b : Byte)
  | rxIdleEnd
  | rxIdleDiag
  | rxIdleCfg
  | rxIdleOther (b : Byte)
  | rxPayEsc (t : FrameType)
  | rxPayEnd (t : FrameType)
  | rxPayLit (t : FrameType) (b : Byte)
  | rxEscSubend (t : FrameType)
  | rxEscSubesc (t : FrameType)
  | rxEscBad (t : FrameType) (b : Byte)
  -- ENC (R80)
  | encIdle (t : Option FrameType) (a : Bool) (c : Byte)
  | encBadstateNotype (ph : TxPhase) (a : Bool) (c : Byte)
  | encBadstateMarkip (a : Bool) (c : Byte)
  | encMark (t : FrameType) (a : Bool) (c : Byte)
  | encSub (t : FrameType) (a : Bool) (c : Byte)
  | encClose (t : FrameType) (c : Byte)
  | encBodyEnd (t : FrameType)
  | encBodyEsc (t : FrameType)
  | encBodyLit (t : FrameType) (c : Byte)
  -- EV (R81)
  | hBeginDiag
  | hBeginBuf (t : BufType)
  | hWriteDiag (b : Byte)
  | hWriteBuf (t : BufType) (b : Byte)
  | hEndDiag
  | hEndBuf (t : BufType)
  -- PORT (R81)
  | rx (b : Byte)
  | consume (t : BufType)
  | rdbuf (t : BufType) (i : Word)
  | rdreg (n : Byte)
  | txSubmit (p : Nat) (t : FrameType) (payload : List Byte)
  | txAcquire (p : Nat)
  | txEmit
  | reservedOp0
  | reservedOp8F (lo : BitVec 3)
  deriving DecidableEq, Repr

/-- The instruction a decoder action is. -/
def DecAction.toInstr : DecAction → Instr
  | .badstate b => .rxBadstate b
  | .idleEnd => .rxIdleEnd
  | .idleDiag => .rxIdleDiag
  | .idleCfg => .rxIdleCfg
  | .idleOther b => .rxIdleOther b
  | .payEsc t => .rxPayEsc t
  | .payEnd t => .rxPayEnd t
  | .payLit t b => .rxPayLit t b
  | .escSubend t => .rxEscSubend t
  | .escSubesc t => .rxEscSubesc t
  | .escBad t b => .rxEscBad t b

/-- The instruction an encoder action is. -/
def EncAction.toInstr : EncAction → Instr
  | .idle t a c => .encIdle t a c
  | .badstateNotype ph a c => .encBadstateNotype ph a c
  | .badstateMarkip a c => .encBadstateMarkip a c
  | .mark t a c => .encMark t a c
  | .sub t a c => .encSub t a c
  | .close t c => .encClose t c
  | .bodyEnd t => .encBodyEnd t
  | .bodyEsc t => .encBodyEsc t
  | .bodyLit t c => .encBodyLit t c

/-- The instruction a handler event is. -/
def EvAction.toInstr : EvAction → Instr
  | .beginDiag => .hBeginDiag
  | .beginBuf t => .hBeginBuf t
  | .writeDiag b => .hWriteDiag b
  | .writeBuf t b => .hWriteBuf t b
  | .endDiag => .hEndDiag
  | .endBuf t => .hEndBuf t

/-- The instructions of format PORT: the operations an agent may present (R81). -/
def Instr.isPort : Instr → Bool
  | .rxBadstate _ | .rxIdleEnd | .rxIdleDiag | .rxIdleCfg | .rxIdleOther _ | .rxPayEsc _ | .rxPayEnd _
  | .rxPayLit _ _ | .rxEscSubend _ | .rxEscSubesc _ | .rxEscBad _ _ => false
  | .encIdle _ _ _ | .encBadstateNotype _ _ _ | .encBadstateMarkip _ _ | .encMark _ _ _ | .encSub _ _ _
  | .encClose _ _ | .encBodyEnd _ | .encBodyEsc _ | .encBodyLit _ _ => false
  | .hBeginDiag | .hBeginBuf _ | .hWriteDiag _ | .hWriteBuf _ _ | .hEndDiag | .hEndBuf _ => false
  | .rx _ | .consume _ | .rdbuf _ _ | .rdreg _ | .txSubmit _ _ _ | .txAcquire _ | .txEmit => true
  | .reservedOp0 | .reservedOp8F _ => true

/-- The instruction is an operation of a port that agent `a` drives (R213). -/
def Instr.drivenBy (a : Agent) : Instr → Bool
  | .rxBadstate _ | .rxIdleEnd | .rxIdleDiag | .rxIdleCfg | .rxIdleOther _ | .rxPayEsc _ | .rxPayEnd _
  | .rxPayLit _ _ | .rxEscSubend _ | .rxEscSubesc _ | .rxEscBad _ _ => false
  | .encIdle _ _ _ | .encBadstateNotype _ _ _ | .encBadstateMarkip _ _ | .encMark _ _ _ | .encSub _ _ _
  | .encClose _ _ | .encBodyEnd _ | .encBodyEsc _ | .encBodyLit _ _ => false
  | .hBeginDiag | .hBeginBuf _ | .hWriteDiag _ | .hWriteBuf _ _ | .hEndDiag | .hEndBuf _ => false
  | .rx _ => decide (a = .byteSource)
  | .consume t => decide (a = .consumer t)
  | .rdbuf t _ => decide (a = .consumer t)
  | .rdreg _ => decide (a = .consumer .cfg) || decide (a = .consumer .ip)
  | .txSubmit p _ _ => decide (a = .producer p)
  | .txAcquire _ => decide (a = .arbiter)
  | .txEmit => decide (a = .byteSink)
  | .reservedOp0 | .reservedOp8F _ => false

end Sys2Proof
end

