-- ==== Sys2Proof/WellFormed.lean ====
section
/-! DEFINITION. Which instructions the encodings can spell: the conditions of the maps R79 and R80 on a row's open fields
("any other byte", a non-idle phase, a type with a marker) and the operand ranges of R78 and R82. An illegal frame type
cannot be written as a term, so R78 has no check here: Decode refuses its code. -/

namespace Sys2Proof

/-- A byte IDLE takes as the first payload byte of an IP frame (R104). -/
def Config.isIdleOther (c : Config) (b : Byte) : Bool :=
  decide (b ≠ c.endByte) && decide (b ≠ c.diagMarker) && decide (b ≠ c.cfgMarker)

/-- A byte that is a literal in a payload state and in a payload to send (R107, R178). -/
def Config.isLiteral (c : Config) (b : Byte) : Bool :=
  decide (b ≠ c.escByte) && decide (b ≠ c.endByte)

/-- A byte that is an escape violation after ESC (R110). -/
def Config.isEscapeViolation (c : Config) (b : Byte) : Bool :=
  decide (b ≠ c.escEnd) && decide (b ≠ c.escEsc)

/-- The instruction is one its format can spell under configuration `c`. -/
def Instr.wf (c : Config) : Instr → Bool
  | .rxBadstate _ => true
  | .rxIdleEnd => true
  | .rxIdleDiag => true
  | .rxIdleCfg => true
  | .rxIdleOther b => c.isIdleOther b
  | .rxPayEsc _ => true
  | .rxPayEnd _ => true
  | .rxPayLit _ b => c.isLiteral b
  | .rxEscSubend _ => true
  | .rxEscSubesc _ => true
  | .rxEscBad _ b => c.isEscapeViolation b
  | .encIdle _ _ _ => true
  | .encBadstateNotype ph _ _ => decide (ph ≠ .idle)
  | .encBadstateMarkip _ _ => true
  | .encMark t _ _ => decide (t ≠ .buf .ip)
  | .encSub _ _ _ => true
  | .encClose _ _ => true
  | .encBodyEnd _ => true
  | .encBodyEsc _ => true
  | .encBodyLit _ b => c.isLiteral b
  | .hBeginDiag => true
  | .hBeginBuf _ => true
  | .hWriteDiag _ => true
  | .hWriteBuf _ _ => true
  | .hEndDiag => true
  | .hEndBuf _ => true
  | .rx _ => true
  | .consume _ => true
  | .rdbuf _ _ => true
  | .rdreg n => decide (n.toNat < 5)
  | .txSubmit p _ _ => decide (p < c.nprod)
  | .txAcquire p => decide (p < c.nprod)
  | .txEmit => true
  | .reservedOp0 => true
  | .reservedOp8F _ => true

end Sys2Proof
end

