-- ==== Sys2Proof/Decode.lean ====
section
/-! DEFINITION. The codes of 10_state.md R21, R23 and R31, the word layouts of 30_encoding.md R73 to R76, the four maps
(R79, R80, R81) as decoders, total on any word and refusing by name, the maps' rows as the spec prints them, and the
encoder. -/

namespace Sys2Proof

/-! ## Codes -/

/-- Frame type codes (R21): `0b01` DIAG, `0b10` CFG, `0b11` IP. -/
def FrameType.code : FrameType → BitVec 2
  | .diag => 1#2
  | .buf .cfg => 2#2
  | .buf .ip => 3#2

/-- A 2-bit type field: `0b00` is none (R21). -/
def frameCode : Option FrameType → BitVec 2
  | none => 0#2
  | some t => t.code

/-- The type a 2-bit field names (R21). -/
def frameOfCode (c : BitVec 2) : Option FrameType :=
  if c = 0#2 then none else if c = 1#2 then some .diag else if c = 2#2 then some (.buf .cfg) else some (.buf .ip)

/-- The buffered type a 2-bit field names, where it names one (R78). -/
def bufOfCode (c : BitVec 2) : Option BufType :=
  if c = 2#2 then some .cfg else if c = 3#2 then some .ip else none

/-- The code of `DSTATE` (R21): the type in `[2:1]`, the escaped bit in `[0]`. -/
def DState.code : DState → BitVec 3
  | .idle => 0#3
  | .unused => 1#3
  | .pay t => t.code ++ 0#1
  | .esc t => t.code ++ 1#1

/-- The decoder state of a 3-bit code (R21). -/
def DState.ofCode (c : BitVec 3) : DState :=
  match frameOfCode (c.extractLsb' 1 2), c.getLsbD 0 with
  | none, false => .idle
  | none, true => .unused
  | some t, false => .pay t
  | some t, true => .esc t

/-- The code of `TX_PHASE` (R31). -/
def TxPhase.code : TxPhase → BitVec 2
  | .idle => 0#2
  | .mark => 1#2
  | .body => 2#2
  | .sub => 3#2

/-- The phase of a 2-bit code (R31). -/
def TxPhase.ofCode (c : BitVec 2) : TxPhase :=
  if c = 0#2 then .idle else if c = 1#2 then .mark else if c = 2#2 then .body else .sub

/-- The three bits of an error set (R23): bit 0 `ESC`, bit 1 `OVF`, bit 2 `BUSY`. -/
def ErrorSet.code (e : ErrorSet) : BitVec 3 :=
  BitVec.ofBool e.busy ++ BitVec.ofBool e.ovf ++ BitVec.ofBool e.esc

/-! ## Word layouts -/

/-- Format DEC (R73): `{DSTATE[2:0], b[7:0]}`. -/
def decWord (d : DState) (b : Byte) : BitVec 11 := d.code ++ b

/-- Format ENC (R74): `{TX_PHASE[1:0], TX_TYPE[1:0], a, c[7:0]}`. -/
def encWord (ph : TxPhase) (t : Option FrameType) (a : Bool) (c : Byte) : BitVec 13 :=
  ph.code ++ frameCode t ++ BitVec.ofBool a ++ c

/-- Format EV (R76): `{k[1:0], t[1:0], d[8:0]}`. -/
def evWord (k : BitVec 2) (t : Option FrameType) (d : BitVec 9) : BitVec 13 :=
  k ++ frameCode t ++ d

/-- The event word of an entry of the `EV` stream (R76). -/
def Event.word : Event → BitVec 13
  | .beginFrame t => evWord 1#2 (some t) 0#9
  | .writeByte t b => evWord 2#2 (some t) (0#1 ++ b)
  | .endFrame t e => evWord 3#2 (some t) (0#6 ++ e.code)

/-! ## The decoders -/

/-- Why a word spells no instruction. -/
inductive DecodeError where
  /-- `t` violates R78. -/
  | illegalFrameType (t : BitVec 2)
  /-- `RDREG` with `n` in `5..255` (R82). -/
  | reservedRegister (n : Byte)
  /-- `TX_SUBMIT` or `TX_ACQUIRE` with `p ≥ P_NPROD` (R82). -/
  | noSuchProducer (p : Nat)
  /-- An EV word with `k = 00` or `t = 00` (R82). -/
  | noSuchEvent (w : BitVec 13)
  deriving DecidableEq, Repr

/-- The DEC map (R79), its rows in priority order within each decoder state. -/
def decodeDec (c : Config) (w : BitVec 11) : DecAction :=
  let b : Byte := w.extractLsb' 0 8
  match DState.ofCode (w.extractLsb' 8 3) with
  | .unused => .badstate b
  | .idle =>
    if b = c.endByte then .idleEnd
    else if b = c.diagMarker then .idleDiag
    else if b = c.cfgMarker then .idleCfg
    else .idleOther b
  | .pay t =>
    if b = c.escByte then .payEsc t
    else if b = c.endByte then .payEnd t
    else .payLit t b
  | .esc t =>
    if b = c.escEnd then .escSubend t
    else if b = c.escEsc then .escSubesc t
    else .escBad t b

/-- The ENC map (R80), its rows in priority order. -/
def decodeEnc (c : Config) (w : BitVec 13) : EncAction :=
  let ph := TxPhase.ofCode (w.extractLsb' 11 2)
  let a := w.getLsbD 8
  let b : Byte := w.extractLsb' 0 8
  match ph, frameOfCode (w.extractLsb' 9 2) with
  | .idle, t => .idle t a b
  | ph, none => .badstateNotype ph a b
  | .mark, some t => if t = .buf .ip then .badstateMarkip a b else .mark t a b
  | .sub, some t => .sub t a b
  | .body, some t =>
    if a then .close t b
    else if b = c.endByte then .bodyEnd t
    else if b = c.escByte then .bodyEsc t
    else .bodyLit t b

/-- The EV map (R81). Its masks leave `d` open, so only a WRITE's `d[7:0]` is read. -/
def decodeEv (w : BitVec 13) : Except DecodeError EvAction :=
  let k : BitVec 2 := w.extractLsb' 11 2
  let b : Byte := w.extractLsb' 0 8
  match frameOfCode (w.extractLsb' 9 2) with
  | none => .error (.noSuchEvent w)
  | some .diag =>
    if k = 1#2 then .ok .beginDiag else if k = 2#2 then .ok (.writeDiag b)
    else if k = 3#2 then .ok .endDiag else .error (.noSuchEvent w)
  | some (.buf t) =>
    if k = 1#2 then .ok (.beginBuf t) else if k = 2#2 then .ok (.writeBuf t b)
    else if k = 3#2 then .ok (.endBuf t) else .error (.noSuchEvent w)

/-- The buffered type an operand line `t` names, or its refusal (R78). -/
def operandBuf (t : BitVec 2) : Except DecodeError BufType :=
  match bufOfCode t with
  | some b => .ok b
  | none => .error (.illegalFrameType t)

/-- The frame type an operand line `t` names, or its refusal (R78). -/
def operandFrame (t : BitVec 2) : Except DecodeError FrameType :=
  match frameOfCode t with
  | some f => .ok f
  | none => .error (.illegalFrameType t)

/-- The PORT map (R81) with the operand checks of R78 and R82. -/
def decodePort (c : Config) (w : PortWord) : Except DecodeError Instr :=
  match w.op.toNat with
  | 0 => .ok .reservedOp0
  | 1 => .ok (.rx w.b)
  | 2 =>
    match operandBuf w.t with
    | .ok t => .ok (.consume t)
    | .error e => .error e
  | 3 =>
    match operandBuf w.t with
    | .ok t => .ok (.rdbuf t w.i)
    | .error e => .error e
  | 4 => if w.n.toNat < 5 then .ok (.rdreg w.n) else .error (.reservedRegister w.n)
  | 5 =>
    match operandFrame w.t with
    | .ok t => if w.p < c.nprod then .ok (.txSubmit w.p t w.payload) else .error (.noSuchProducer w.p)
    | .error e => .error e
  | 6 => if w.p < c.nprod then .ok (.txAcquire w.p) else .error (.noSuchProducer w.p)
  | 7 => .ok .txEmit
  | _ => .ok (.reservedOp8F (w.op.extractLsb' 0 3))

/-- The instruction a word of any format spells. -/
def decode (c : Config) : CodeWord → Except DecodeError Instr
  | .dec w => .ok (decodeDec c w).toInstr
  | .enc w => .ok (decodeEnc c w).toInstr
  | .ev w =>
    match decodeEv w with
    | .ok a => .ok a.toInstr
    | .error e => .error e
  | .port w => decodePort c w

/-! ## The maps as tables -/

/-- A row's match and mask. -/
structure MapRow (n : Nat) where
  want : BitVec n
  mask : BitVec n
  deriving DecidableEq, Repr

/-- The number, counting from 1, of the first row with `W & mask = match`; `0` where none is. -/
def firstRow {n : Nat} (w : BitVec n) : List (MapRow n) → Nat
  | [] => 0
  | r :: rs => if w &&& r.mask = r.want then 1 else if firstRow w rs = 0 then 0 else firstRow w rs + 1

/-- The DEC map's rows in priority order, as R79 prints them with the bytes of R72 in place of `P_*`. -/
def decRows (c : Config) : List (MapRow 11) :=
  [⟨0x100#11, 0x700#11⟩,
   ⟨0#3 ++ c.endByte, 0x7FF#11⟩, ⟨0#3 ++ c.diagMarker, 0x7FF#11⟩, ⟨0#3 ++ c.cfgMarker, 0x7FF#11⟩,
   ⟨0x000#11, 0x700#11⟩,
   ⟨0#3 ++ c.escByte, 0x1FF#11⟩, ⟨0#3 ++ c.endByte, 0x1FF#11⟩, ⟨0x000#11, 0x100#11⟩,
   ⟨1#3 ++ c.escEnd, 0x1FF#11⟩, ⟨1#3 ++ c.escEsc, 0x1FF#11⟩, ⟨0x100#11, 0x100#11⟩]

/-- The ENC map's rows in priority order, as R80 prints them. -/
def encRows (c : Config) : List (MapRow 13) :=
  [⟨0x0000#13, 0x1800#13⟩, ⟨0x0000#13, 0x0600#13⟩, ⟨0x0E00#13, 0x1E00#13⟩,
   ⟨0x0800#13, 0x1800#13⟩, ⟨0x1800#13, 0x1800#13⟩, ⟨0x1100#13, 0x1900#13⟩,
   ⟨0x10#5 ++ c.endByte, 0x19FF#13⟩, ⟨0x10#5 ++ c.escByte, 0x19FF#13⟩, ⟨0x1000#13, 0x1900#13⟩]

/-- The EV map's rows, as R81 prints them. -/
def evRows : List (MapRow 13) :=
  [⟨0x0A00#13, 0x1E00#13⟩, ⟨0x0C00#13, 0x1C00#13⟩, ⟨0x1200#13, 0x1E00#13⟩,
   ⟨0x1400#13, 0x1C00#13⟩, ⟨0x1A00#13, 0x1E00#13⟩, ⟨0x1C00#13, 0x1C00#13⟩]

/-- The PORT rows in the table's order: RX, CONSUME, RDBUF, RDREG, TX_SUBMIT, TX_ACQUIRE, TX_EMIT, and the reserved codes
(R81, R82). -/
def portRows : List (MapRow 4) :=
  [⟨0x1#4, 0xF#4⟩, ⟨0x2#4, 0xF#4⟩, ⟨0x3#4, 0xF#4⟩, ⟨0x4#4, 0xF#4⟩, ⟨0x5#4, 0xF#4⟩, ⟨0x6#4, 0xF#4⟩,
   ⟨0x7#4, 0xF#4⟩, ⟨0x0#4, 0xF#4⟩, ⟨0x8#4, 0x8#4⟩]

/-- The row of R79 an action is. -/
def DecAction.row : DecAction → Nat
  | .badstate _ => 1
  | .idleEnd => 2
  | .idleDiag => 3
  | .idleCfg => 4
  | .idleOther _ => 5
  | .payEsc _ => 6
  | .payEnd _ => 7
  | .payLit _ _ => 8
  | .escSubend _ => 9
  | .escSubesc _ => 10
  | .escBad _ _ => 11

/-- The row of R80 an action is. -/
def EncAction.row : EncAction → Nat
  | .idle _ _ _ => 1
  | .badstateNotype _ _ _ => 2
  | .badstateMarkip _ _ => 3
  | .mark _ _ _ => 4
  | .sub _ _ _ => 5
  | .close _ _ => 6
  | .bodyEnd _ => 7
  | .bodyEsc _ => 8
  | .bodyLit _ _ => 9

/-- The row of the EV map (R81) an event is. -/
def EvAction.row : EvAction → Nat
  | .beginDiag => 1
  | .beginBuf _ => 2
  | .writeDiag _ => 3
  | .writeBuf _ _ => 4
  | .endDiag => 5
  | .endBuf _ => 6

/-! ## The encoder -/

/-- The word of an instruction, written from the same layouts; an operand line an operation does not use is zero. -/
def encode (c : Config) : Instr → CodeWord
  | .rxBadstate b => .dec (decWord .unused b)
  | .rxIdleEnd => .dec (decWord .idle c.endByte)
  | .rxIdleDiag => .dec (decWord .idle c.diagMarker)
  | .rxIdleCfg => .dec (decWord .idle c.cfgMarker)
  | .rxIdleOther b => .dec (decWord .idle b)
  | .rxPayEsc t => .dec (decWord (.pay t) c.escByte)
  | .rxPayEnd t => .dec (decWord (.pay t) c.endByte)
  | .rxPayLit t b => .dec (decWord (.pay t) b)
  | .rxEscSubend t => .dec (decWord (.esc t) c.escEnd)
  | .rxEscSubesc t => .dec (decWord (.esc t) c.escEsc)
  | .rxEscBad t b => .dec (decWord (.esc t) b)
  | .encIdle t a b => .enc (encWord .idle t a b)
  | .encBadstateNotype ph a b => .enc (encWord ph none a b)
  | .encBadstateMarkip a b => .enc (encWord .mark (some (.buf .ip)) a b)
  | .encMark t a b => .enc (encWord .mark (some t) a b)
  | .encSub t a b => .enc (encWord .sub (some t) a b)
  | .encClose t b => .enc (encWord .body (some t) true b)
  | .encBodyEnd t => .enc (encWord .body (some t) false c.endByte)
  | .encBodyEsc t => .enc (encWord .body (some t) false c.escByte)
  | .encBodyLit t b => .enc (encWord .body (some t) false b)
  | .hBeginDiag => .ev (evWord 1#2 (some .diag) 0#9)
  | .hBeginBuf t => .ev (evWord 1#2 (some (.buf t)) 0#9)
  | .hWriteDiag b => .ev (evWord 2#2 (some .diag) (0#1 ++ b))
  | .hWriteBuf t b => .ev (evWord 2#2 (some (.buf t)) (0#1 ++ b))
  | .hEndDiag => .ev (evWord 3#2 (some .diag) 0#9)
  | .hEndBuf t => .ev (evWord 3#2 (some (.buf t)) 0#9)
  | .rx b => .port { op := 0x1, b := b }
  | .consume t => .port { op := 0x2, t := (FrameType.buf t).code }
  | .rdbuf t i => .port { op := 0x3, t := (FrameType.buf t).code, i := i }
  | .rdreg n => .port { op := 0x4, n := n }
  | .txSubmit p t payload => .port { op := 0x5, p := p, t := t.code, payload := payload }
  | .txAcquire p => .port { op := 0x6, p := p }
  | .txEmit => .port { op := 0x7 }
  | .reservedOp0 => .port { op := 0x0 }
  | .reservedOp8F lo => .port { op := 1#1 ++ lo }

/-! ## Words as opcode_table.json numbers them -/

/-- The word of `nbits` bits whose value is `w`, in the format it is read in. Up to 8 bits it is a PORT word: `OP` with
operand lines of zeros. Up to 16 bits the table's number does not tell DEC, ENC and EV apart (they overlap), and this
order is the model's choice (log 12): a DEC word where its value fits 11 bits; else an event word where it is laid out as
R76 lays one out and is not the match of an ENC row (0x0E00, ENC_BADSTATE_MARKIP); else an ENC word. -/
def tableWord (nbits w : Nat) : Option CodeWord :=
  if nbits ≤ 8 then
    if w < 2 ^ 8 then some (.port { op := BitVec.ofNat 4 w }) else none
  else if nbits ≤ 16 then
    if w < 2 ^ 11 then some (.dec (BitVec.ofNat 11 w))
    else if w < 2 ^ 13 then
      let v := BitVec.ofNat 13 w
      let k : BitVec 2 := v.extractLsb' 11 2
      let d : BitVec 9 := v.extractLsb' 0 9
      let laidOut :=
        (k = 1#2 ∧ d = 0#9) ∨ (k = 2#2 ∧ d.getLsbD 8 = false) ∨ (k = 3#2 ∧ d.extractLsb' 3 6 = 0#6)
      if frameOfCode (v.extractLsb' 9 2) ≠ none ∧ laidOut ∧ v ≠ 0x0E00#13 then some (.ev v) else some (.enc v)
    else none
  else none

/-- The instruction this decoder reads from an instruction whose bits are `w`, numbered as spec/opcode_table.json numbers
them, with the reserved bytes of R72. -/
def decodeTableWord (nbits w : Nat) : Option Instr :=
  match tableWord nbits w with
  | none => none
  | some cw =>
    match decode Config.spec cw with
    | .ok i => some i
    | .error _ => none

end Sys2Proof
end

