-- ==== Sys2Proof/Machine/State.lean ====
section
/-! DEFINITION. The state of the block (10_state.md), the reasons a step can stop, and the state right after
construction (70_reset_and_hazards.md R230, R231). -/

namespace Sys2Proof.Machine

/-- `FAULT_CAUSE` (R29, R200), when a fault is recorded. -/
inductive FaultCause where
  | protocol
  | badDstate
  | badTxstate
  | consumerContract
  deriving DecidableEq, Repr

/-- A value for each of some keys: keys strictly rising, a key that is not listed has no value. -/
abbrev Store (α : Type) := List (Nat × α)

/-- The cells of a frame buffer that have been written (R25). A cell that is not listed is unwritten. -/
abbrev Memory := List Host.Cell

/-- What the accumulator holds for one buffered frame type: `BUF_t`, `IDX_t`, `LEN_t`, `READY_t`, `ERR_t` (R24 to R28). -/
structure Slot where
  buf : Memory
  idx : Word
  len : Word
  ready : Bool
  err : ErrorSet
  deriving DecidableEq, Repr

/-- A producer's outstanding request (R30). -/
structure TxRequest where
  frame : FrameType
  payload : List Byte
  deriving DecidableEq, Repr

/-- What the operation taken last answered at its port (log 4): nothing, or the `result` of `RDBUF` or of `RDREG`. -/
inductive Reply where
  | none
  | byte (b : Byte)
  | word (w : Word)
  deriving DecidableEq, Repr

/-- The state of the block. `conf`, `pending` and `reply` are the model's own fields (logs 1, 3, 4); every other field is
one the spec names. -/
structure State where
  /-- The configuration the block was constructed with (R6); no step changes it. -/
  conf : Config
  /-- `DSTATE` (R20). -/
  dstate : DState
  /-- `HOPEN` (R22). -/
  hopen : Option FrameType
  /-- `FERR` (R23). -/
  ferr : ErrorSet
  /-- `CFG_BUF`, `CFG_IDX`, `CFG_LEN`, `CFG_READY`, `CFG_ERR`. -/
  cfgSlot : Slot
  /-- `IP_BUF`, `IP_IDX`, `IP_LEN`, `IP_READY`, `IP_ERR`. -/
  ipSlot : Slot
  /-- `FAULT` (R29). -/
  fault : Bool
  /-- `FAULT_CAUSE` (R29). -/
  faultCause : Option FaultCause
  /-- `TX_REQ` (R30); a producer that is not listed has no request. -/
  txReq : Store TxRequest
  /-- `TX_OWNER` (R31). -/
  txOwner : Option Nat
  /-- `TX_PHASE` (R31). -/
  txPhase : TxPhase
  /-- `TX_TYPE` (R31). -/
  txType : Option FrameType
  /-- `TX_PAYLOAD` (R31). -/
  txPayload : List Byte
  /-- `TX_POS` (R31). -/
  txPos : Nat
  /-- `TX_SUBB` (R31). -/
  txSubb : Byte
  /-- The stream `EV` (R32), oldest first; so are the four below. -/
  ev : List Event
  /-- The stream `DIAG_OUT` (R32). -/
  diagOut : List Byte
  /-- The stream `WIRE` (R32). -/
  wire : List Byte
  /-- The stream `NOTIFY` (R32). -/
  notify : List BufType
  /-- The stream `TX_DONE` (R32). -/
  txDone : List Nat
  /-- The words presented at the ports and not yet taken, in the one total order of R57. -/
  pending : List Presented
  /-- What the operation taken last answered. -/
  reply : Reply
  deriving DecidableEq, Repr

/-- Why the block stops without a next state. -/
inductive Fault where
  /-- `FAULT = 1`: no operation has a step (R208). Raised by every meaning but the reserved codes', and by a step. Safe. -/
  | halted (cause : Option FaultCause)
  /-- `RDBUF` at an index below `LEN_t` that is no cell of the buffer (R50): only where `LEN_t > P_t_CAP`, which no run
  reaches (R27). Raised by `RDBUF`. Safe (log 11). -/
  | noSuchCell (t : BufType) (i : Word)
  deriving DecidableEq, Repr

/-- Why a word or an instruction has no meaning. -/
inductive Refusal where
  /-- The instruction of this mnemonic has no meaning in this model. Raised by no arm. Safe. -/
  | notModelled (mnemonic : String)
  /-- `OP` is a reserved code (R82). Raised by RESERVED_OP_0 and RESERVED_OP_8_F. Safe. -/
  | reservedOperation (op : BitVec 4)
  /-- An operand the operation refuses (R82). Raised by a step on the presented word, and by `RDREG`, `TX_SUBMIT` and
  `TX_ACQUIRE`. Safe. -/
  | illegalOperand (e : DecodeError)
  /-- The configuration is ill formed: no step is defined for it (R7). Raised by a step. Safe. -/
  | illFormedConfiguration
  deriving DecidableEq, Repr

/-- A slot at reset (R24 to R28). -/
def Slot.reset : Slot where
  buf := []
  idx := 0
  len := 0
  ready := false
  err := .empty

/-- The block right after it is constructed with configuration `c` (R230, R231; 10_state.md §1). -/
def State.constructed (c : Config) : State where
  conf := c
  dstate := .idle
  hopen := none
  ferr := .empty
  cfgSlot := .reset
  ipSlot := .reset
  fault := false
  faultCause := none
  txReq := []
  txOwner := none
  txPhase := .idle
  txType := none
  txPayload := []
  txPos := 0
  txSubb := 0
  ev := []
  diagOut := []
  wire := []
  notify := []
  txDone := []
  pending := []
  reply := .none

/-- The block right after reset, with the parameters this spec takes (logs 1 and 2). -/
def State.reset : State := State.constructed Config.spec

end Sys2Proof.Machine
end

