-- ==== Sys2Proof/Machine/Ops.lean ====
section
/-! DEFINITION. The named operations over memory and registers (00_scope.md R9): stores, the buffers' cells, the
per-type registers, the streams, and the one operation that takes a fault (60_exceptions.md R208). -/

namespace Sys2Proof.Machine

/-! ## Stores with rising keys -/

/-- The value at key `i`. -/
def Store.read {α : Type} : Store α → Nat → Option α
  | [], _ => none
  | (k, v) :: rest, i => if k = i then some v else Store.read rest i

/-- Write `v` at key `i`, keys staying in rising order. -/
def Store.write {α : Type} : Store α → Nat → α → Store α
  | [], i, v => [(i, v)]
  | (k, w) :: rest, i, v =>
    if i < k then (i, v) :: (k, w) :: rest
    else if i = k then (i, v) :: rest
    else (k, w) :: Store.write rest i v

/-- Take key `i` out. -/
def Store.erase {α : Type} : Store α → Nat → Store α
  | [], _ => []
  | (k, w) :: rest, i => if k = i then Store.erase rest i else (k, w) :: Store.erase rest i

/-- The canonical form: keys strictly rising. -/
abbrev Store.wf {α : Type} (m : Store α) : Prop := (m.map Prod.fst).Pairwise (· < ·)

/-! ## The buffers' cells -/

/-- Cell `i` of a buffer: a byte, or unwritten (R25). -/
def Memory.read (m : Memory) (i : Nat) : Option Byte := Store.read m i

/-- `MemWrite(BUF_t, i, 1, v)` (R9, R51). -/
def Memory.write (m : Memory) (i : Nat) (v : Byte) : Memory := Store.write m i v

/-- The canonical form of a buffer: indices strictly rising. No entry equals what an unlisted cell reads as, since an
unlisted cell holds no byte. -/
abbrev Memory.wf (m : Memory) : Prop := Store.wf m

/-- `P_t_CAP` (R6). -/
def cap (c : Config) : BufType → Nat
  | .cfg => c.cfgCap
  | .ip => c.ipCap

/-- The free value an unwritten cell holds (I19, log 8). -/
def unwrittenByte : BufType → Nat → Byte
  | .cfg => Config.unwrittenCfgByte
  | .ip => Config.unwrittenIpByte

namespace State

/-! ## The registers of one frame type -/

/-- The slot of type `t`. -/
def slot (s : State) : BufType → Slot
  | .cfg => s.cfgSlot
  | .ip => s.ipSlot

/-- `s` with the slot of type `t` replaced. -/
def setSlot (s : State) (t : BufType) (v : Slot) : State :=
  match t with
  | .cfg => { s with cfgSlot := v }
  | .ip => { s with ipSlot := v }

/-- `MemRead(BUF_t, i, 1)` (R9): the byte of a written cell, the free value of an unwritten one. -/
def memRead (s : State) (t : BufType) (i : Nat) : Byte :=
  ((s.slot t).buf.read i).getD (unwrittenByte t i)

/-- Store `b` at `BUF_t[IDX_t]` and step `IDX_t` (R135). -/
def appendByte (s : State) (t : BufType) (b : Byte) : State :=
  let v := s.slot t
  s.setSlot t { v with buf := v.buf.write v.idx.toNat b, idx := v.idx + 1 }

/-! ## Streams (R9, R32) -/

/-- `emit EV(e)`. -/
def emitEv (s : State) (e : Event) : State := { s with ev := s.ev ++ [e] }

/-- `emit DIAG_OUT(b)`. -/
def emitDiag (s : State) (b : Byte) : State := { s with diagOut := s.diagOut ++ [b] }

/-- `emit WIRE(b)`. -/
def emitWire (s : State) (b : Byte) : State := { s with wire := s.wire ++ [b] }

/-- `emit NOTIFY(t)`. -/
def emitNotify (s : State) (t : BufType) : State := { s with notify := s.notify ++ [t] }

/-- `emit TX_DONE(p)`. -/
def emitTxDone (s : State) (p : Nat) : State := { s with txDone := s.txDone ++ [p] }

/-! ## Faults and answers -/

/-- `raise Fault(c)` (R208): `FAULT` and `FAULT_CAUSE` are written, nothing else is saved. There is no return from it
(R209). -/
def raiseFault (s : State) (c : FaultCause) : State := { s with fault := true, faultCause := some c }

/-- The rest `k` of a rule after a call: where the call raised a fault, the operation completes no other effect (R9). -/
def andThen (s : State) (k : State → State) : State := if s.fault then s else k s

/-- `result <- v` (R141, R142). -/
def answer (s : State) (v : Reply) : State := { s with reply := v }

end State

/-- An operation enabled when `FAULT = 0` (R208): its effect `k`, which reaches a next state. -/
def whenEnabled (s : State) (k : State → State) : Host.Outcome State Fault Refusal :=
  if s.fault then .fault (.halted s.faultCause) else .next (k s)

end Sys2Proof.Machine
end

