-- ==== Sys2Proof/Machine/Operands.lean ====
section
/-! DEFINITION. How operands are formed (30_encoding.md §2, §3): the decode word of an `RX`, the encode word of a
`TX_EMIT`, the substitutes and markers, and the encoding function (42_encoder.md R170, R171). -/

namespace Sys2Proof.Machine

/-- The decode word an `RX(b)` forms (R73, R100). -/
def rxWord (s : State) (b : Byte) : BitVec 11 := decWord s.dstate b

/-- `a` of the encode word (R74): the payload is exhausted. -/
def txExhausted (s : State) : Bool := decide (s.txPos = s.txPayload.length)

/-- `TX_PAYLOAD[TX_POS]`; past the end of the payload it is the free value (log 9). -/
def txNext (s : State) : Byte := (s.txPayload[s.txPos]?).getD (Config.beyondPayload s.txPos)

/-- `c` of the encode word (R74). -/
def txByte (s : State) : Byte := if txExhausted s then 0 else txNext s

/-- The encode word a `TX_EMIT` forms (R74, R174). -/
def txWord (s : State) : BitVec 13 := encWord s.txPhase s.txType (txExhausted s) (txByte s)

/-- `Marker(t)` (R171). -/
def marker (c : Config) : FrameType → List Byte
  | .diag => [c.diagMarker]
  | .buf .cfg => [c.cfgMarker]
  | .buf .ip => []

/-- `Esc(b)` (R170). -/
def escape (c : Config) (b : Byte) : List Byte :=
  if b = c.endByte then [c.escByte, c.escEnd]
  else if b = c.escByte then [c.escByte, c.escEsc]
  else [b]

/-- `Encode(t, P)` (R170): the bytes of a frame on the wire. -/
def wireFrame (c : Config) (t : FrameType) (payload : List Byte) : List Byte :=
  marker c t ++ payload.flatMap (escape c) ++ [c.endByte]

/-- The phase a frame of type `t` starts in (R173). -/
def firstPhase : FrameType → TxPhase
  | .diag => .mark
  | .buf .cfg => .mark
  | .buf .ip => .body

end Sys2Proof.Machine
end

