-- ==== Sys2Proof/Machine/Flags.lean ====
section
/-! DEFINITION. The error set `FERR` (10_state.md R23, 60_exceptions.md §1) and the read-only registers with `STATUS`
(10_state.md R36, R37). -/

namespace Sys2Proof.Machine

/-- `FERR` of a frame of type `t` that begins (R133): `BUSY` where the buffer holds an undrained frame, else empty. -/
def ferrAtBegin (v : Slot) : ErrorSet := if v.ready then .onlyBusy else .empty

/-- `FERR.ESC <- 1` (R110, R201). -/
def State.setEscError (s : State) : State := { s with ferr := { s.ferr with esc := true } }

/-- `FERR.OVF <- 1` (R135, R202). -/
def State.setOverflow (s : State) : State := { s with ferr := { s.ferr with ovf := true } }

/-- A frame that ends with error set `e` is delivered (R137): not busy, and clean unless errored frames are delivered. -/
def delivers (c : Config) (e : ErrorSet) : Bool := !e.busy && (decide (e = .empty) || c.deliverErrored)

/-- `STATUS` (R37), from bit 31 down. -/
def status (s : State) : Word :=
  0#15 ++ s.ipSlot.err.code ++ s.cfgSlot.err.code ++ s.ferr.code ++ frameCode s.hopen ++ s.dstate.code ++
    BitVec.ofBool s.txOwner.isSome ++ BitVec.ofBool s.ipSlot.ready ++ BitVec.ofBool s.cfgSlot.ready

/-- `REG[n]` (R36, R142), for the numbers that name a register. -/
def register (s : State) (n : Byte) : Option Word :=
  match n.toNat with
  | 0 => some (status s)
  | 1 => some s.cfgSlot.len
  | 2 => some s.ipSlot.len
  | 3 => some s.cfgSlot.idx
  | 4 => some s.ipSlot.idx
  | _ => none

end Sys2Proof.Machine
end

