-- ==== Sys2Proof/Machine/Consumer.lean ====
section
/-! DEFINITION. The consumer port (41_handler.md §7) and the reserved operation codes (30_encoding.md R82). -/

namespace Sys2Proof.Machine

/-- CONSUME (R140): with `READY_t = 0` it is a no-op. -/
def execConsume (t : BufType) (s : State) : Host.Outcome State Fault Refusal :=
  whenEnabled s fun s => s.setSlot t { s.slot t with ready := false }

/-- RDBUF (R141): a byte of the delivered frame; outside it the fault CONSUMER_CONTRACT is taken. An index that is no cell
of the buffer cannot be read (R50, log 11). -/
def execRdbuf (t : BufType) (i : Word) (s : State) : Host.Outcome State Fault Refusal :=
  if s.fault then .fault (.halted s.faultCause)
  else if (s.slot t).ready = true ∧ i.toNat < (s.slot t).len.toNat then
    if i.toNat < cap s.conf t then .next (s.answer (.byte (s.memRead t i.toNat))) else .fault (.noSuchCell t i)
  else .next (s.raiseFault .consumerContract)

/-- RDREG (R142). A number that names no register is refused (R82). -/
def execRdreg (n : Byte) (s : State) : Host.Outcome State Fault Refusal :=
  match register s n with
  | some v => whenEnabled s fun s => s.answer (.word v)
  | none => .refused (.illegalOperand (.reservedRegister n))

/-- RESERVED_OP_0 (R82): spells no operation and is refused. -/
def execReservedOp0 (_s : State) : Host.Outcome State Fault Refusal :=
  .refused (.reservedOperation 0)

/-- RESERVED_OP_8_F (R82): spells no operation and is refused. -/
def execReservedOp8F (lo : BitVec 3) (_s : State) : Host.Outcome State Fault Refusal :=
  .refused (.reservedOperation (1#1 ++ lo))

end Sys2Proof.Machine
end

