-- ==== Sys2Proof/Machine/Handler.lean ====
section
/-! DEFINITION. The frame accumulator (41_handler.md §1 to §4): the events `HBegin`, `HWrite` and `HEnd`, each subject
first to the contract check of R131, and the meanings of the EV rows. -/

namespace Sys2Proof.Machine

/-- The contract check (R131): where `HOPEN` is not `want`, the event raises `PROTOCOL` and has no other effect. -/
def checkOpen (want : Option FrameType) (s : State) (k : State → State) : State :=
  if s.hopen = want then k s else s.raiseFault .protocol

/-- `HBegin(DIAG)` (R132). -/
def beginDiag (s : State) : State :=
  checkOpen none s fun s => { s with hopen := some .diag, ferr := .empty }.emitEv (.beginFrame .diag)

/-- `HBegin(t)`, `t` buffered (R133): the write offset restarts unless the buffer holds an undrained frame. -/
def beginBuf (t : BufType) (s : State) : State :=
  checkOpen none s fun s =>
    let v := s.slot t
    let s := { s with hopen := some (.buf t), ferr := ferrAtBegin v }.emitEv (.beginFrame (.buf t))
    if v.ready then s else s.setSlot t { v with idx := 0 }

/-- `HWrite(DIAG, b)` (R134). -/
def writeDiag (b : Byte) (s : State) : State :=
  checkOpen (some .diag) s fun s => (s.emitEv (.writeByte .diag b)).emitDiag b

/-- `HWrite(t, b)`, `t` buffered (R135): skipped in a busy frame, stored while capacity remains, else overflow. -/
def writeBuf (t : BufType) (b : Byte) (s : State) : State :=
  checkOpen (some (.buf t)) s fun s =>
    let s := s.emitEv (.writeByte (.buf t) b)
    if s.ferr.busy then s
    else if (s.slot t).idx.toNat < cap s.conf t then s.appendByte t b
    else s.setOverflow

/-- `HEnd(DIAG)` (R136). -/
def endDiag (s : State) : State :=
  checkOpen (some .diag) s fun s => { s.emitEv (.endFrame .diag s.ferr) with hopen := none }

/-- `HEnd(t)`, `t` buffered (R137): a frame that is delivered latches `LEN_t` and `ERR_t`, sets `READY_t` and notifies. -/
def endBuf (t : BufType) (s : State) : State :=
  checkOpen (some (.buf t)) s fun s =>
    let v := s.slot t
    let e := s.ferr
    let s := { s.emitEv (.endFrame (.buf t) e) with hopen := none }
    if delivers s.conf e then (s.setSlot t { v with len := v.idx, err := e, ready := true }).emitNotify t else s

/-- `HBegin(t)` (R130). -/
def hBegin : FrameType → State → State
  | .diag => beginDiag
  | .buf t => beginBuf t

/-- `HWrite(t, b)` (R130). -/
def hWrite : FrameType → Byte → State → State
  | .diag => writeDiag
  | .buf t => writeBuf t

/-- `HEnd(t)` (R130). -/
def hEnd : FrameType → State → State
  | .diag => endDiag
  | .buf t => endBuf t

/-- H_BEGIN_DIAG (R132). -/
def execHBeginDiag (s : State) : Host.Outcome State Fault Refusal := whenEnabled s beginDiag

/-- H_BEGIN_BUF (R133). -/
def execHBeginBuf (t : BufType) (s : State) : Host.Outcome State Fault Refusal := whenEnabled s (beginBuf t)

/-- H_WRITE_DIAG (R134). -/
def execHWriteDiag (b : Byte) (s : State) : Host.Outcome State Fault Refusal := whenEnabled s (writeDiag b)

/-- H_WRITE_BUF (R135). -/
def execHWriteBuf (t : BufType) (b : Byte) (s : State) : Host.Outcome State Fault Refusal :=
  whenEnabled s (writeBuf t b)

/-- H_END_DIAG (R136). -/
def execHEndDiag (s : State) : Host.Outcome State Fault Refusal := whenEnabled s endDiag

/-- H_END_BUF (R137). -/
def execHEndBuf (t : BufType) (s : State) : Host.Outcome State Fault Refusal := whenEnabled s (endBuf t)

end Sys2Proof.Machine
end

