-- ==== Sys2Proof/Machine/Decoder.lean ====
section
/-! DEFINITION. The decoder (40_decoder.md): the meanings of the DEC rows (R101 to R111) and of `RX` (R100), which
performs the row its decode word selects. -/

namespace Sys2Proof.Machine

/-- RX_BADSTATE (R111). -/
def execRxBadstate (s : State) : Host.Outcome State Fault Refusal :=
  whenEnabled s fun s => s.raiseFault .badDstate

/-- RX_IDLE_END (R101): a bare delimiter in IDLE has no effect. -/
def execRxIdleEnd (s : State) : Host.Outcome State Fault Refusal :=
  whenEnabled s fun s => s

/-- RX_IDLE_DIAG (R102). -/
def execRxIdleDiag (s : State) : Host.Outcome State Fault Refusal :=
  whenEnabled s fun s => hBegin .diag { s with dstate := .pay .diag }

/-- RX_IDLE_CFG (R103). -/
def execRxIdleCfg (s : State) : Host.Outcome State Fault Refusal :=
  whenEnabled s fun s => hBegin (.buf .cfg) { s with dstate := .pay (.buf .cfg) }

/-- RX_IDLE_OTHER (R104): the byte opens an IP frame and is its first payload byte. -/
def execRxIdleOther (b : Byte) (s : State) : Host.Outcome State Fault Refusal :=
  whenEnabled s fun s => (hBegin (.buf .ip) { s with dstate := .pay (.buf .ip) }).andThen (hWrite (.buf .ip) b)

/-- RX_PAY_ESC (R105): the byte is consumed and not delivered. -/
def execRxPayEsc (t : FrameType) (s : State) : Host.Outcome State Fault Refusal :=
  whenEnabled s fun s => { s with dstate := .esc t }

/-- RX_PAY_END (R106): the event comes before the write of `DSTATE`. -/
def execRxPayEnd (t : FrameType) (s : State) : Host.Outcome State Fault Refusal :=
  whenEnabled s fun s => (hEnd t s).andThen fun s => { s with dstate := .idle }

/-- RX_PAY_LIT (R107). -/
def execRxPayLit (t : FrameType) (b : Byte) (s : State) : Host.Outcome State Fault Refusal :=
  whenEnabled s (hWrite t b)

/-- RX_ESC_SUBEND (R108): the byte delivered is `P_END`. -/
def execRxEscSubend (t : FrameType) (s : State) : Host.Outcome State Fault Refusal :=
  whenEnabled s fun s => (hWrite t s.conf.endByte s).andThen fun s => { s with dstate := .pay t }

/-- RX_ESC_SUBESC (R109): the byte delivered is `P_ESC`. -/
def execRxEscSubesc (t : FrameType) (s : State) : Host.Outcome State Fault Refusal :=
  whenEnabled s fun s => (hWrite t s.conf.escByte s).andThen fun s => { s with dstate := .pay t }

/-- RX_ESC_BAD (R110): the violation is recorded, the byte delivered as it is. -/
def execRxEscBad (t : FrameType) (b : Byte) (s : State) : Host.Outcome State Fault Refusal :=
  whenEnabled s fun s => (hWrite t b s.setEscError).andThen fun s => { s with dstate := .pay t }

/-- The meaning of a decoder action. -/
def runDec (a : DecAction) (s : State) : Host.Outcome State Fault Refusal :=
  match a with
  | .badstate _ => execRxBadstate s
  | .idleEnd => execRxIdleEnd s
  | .idleDiag => execRxIdleDiag s
  | .idleCfg => execRxIdleCfg s
  | .idleOther b => execRxIdleOther b s
  | .payEsc t => execRxPayEsc t s
  | .payEnd t => execRxPayEnd t s
  | .payLit t b => execRxPayLit t b s
  | .escSubend t => execRxEscSubend t s
  | .escSubesc t => execRxEscSubesc t s
  | .escBad t b => execRxEscBad t b s

/-- RX (R100): the action of the first DEC row its word matches. It is never held. -/
def execRx (b : Byte) (s : State) : Host.Outcome State Fault Refusal :=
  runDec (decodeDec s.conf (rxWord s b)) s

end Sys2Proof.Machine
end

