-- ==== Sys2Proof/Machine/Encoder.lean ====
section
/-! DEFINITION. The transmit path (42_encoder.md): the meanings of the ENC rows (R175 to R182), of `TX_EMIT` (R174), which
performs the row its encode word selects, and of `TX_SUBMIT` (R172) and `TX_ACQUIRE` (R173). -/

namespace Sys2Proof.Machine

/-- The first byte of an escape pair (R176, R177): `P_ESC` goes out and `subst` waits for phase SUB. -/
def emitEscape (subst : Byte) (s : State) : State :=
  { s.emitWire s.conf.escByte with txSubb := subst, txPos := s.txPos + 1, txPhase := .sub }

/-- The request of the owner is answered and the lock is free (R180). Without an owner there is no producer to answer
(log 10). -/
def releaseLock (s : State) : State :=
  let t : State := { s with txOwner := none, txPhase := .idle }
  match s.txOwner with
  | some p => { t with txReq := Store.erase s.txReq p }.emitTxDone p
  | none => t

/-- ENC_IDLE (R182): held, since the sink has nothing to accept: no effect (R10), and no step takes the word
(Machine/Enabled.lean). -/
def execEncIdle (s : State) : Host.Outcome State Fault Refusal :=
  whenEnabled s fun s => s

/-- ENC_BADSTATE_NOTYPE (R181). -/
def execEncBadstateNotype (s : State) : Host.Outcome State Fault Refusal :=
  whenEnabled s fun s => s.raiseFault .badTxstate

/-- ENC_BADSTATE_MARKIP (R181). -/
def execEncBadstateMarkip (s : State) : Host.Outcome State Fault Refusal :=
  whenEnabled s fun s => s.raiseFault .badTxstate

/-- ENC_MARK (R175). A type without a marker is the state of R181. -/
def execEncMark (t : FrameType) (s : State) : Host.Outcome State Fault Refusal :=
  whenEnabled s fun s =>
    match marker s.conf t with
    | m :: _ => { s.emitWire m with txPhase := .body }
    | [] => s.raiseFault .badTxstate

/-- ENC_SUB (R179). -/
def execEncSub (s : State) : Host.Outcome State Fault Refusal :=
  whenEnabled s fun s => { s.emitWire s.txSubb with txPhase := .body }

/-- ENC_CLOSE (R180). -/
def execEncClose (s : State) : Host.Outcome State Fault Refusal :=
  whenEnabled s fun s => releaseLock (s.emitWire s.conf.endByte)

/-- ENC_BODY_END (R176). -/
def execEncBodyEnd (s : State) : Host.Outcome State Fault Refusal :=
  whenEnabled s fun s => emitEscape s.conf.escEnd s

/-- ENC_BODY_ESC (R177). -/
def execEncBodyEsc (s : State) : Host.Outcome State Fault Refusal :=
  whenEnabled s fun s => emitEscape s.conf.escEsc s

/-- ENC_BODY_LIT (R178). -/
def execEncBodyLit (c : Byte) (s : State) : Host.Outcome State Fault Refusal :=
  whenEnabled s fun s => { s.emitWire c with txPos := s.txPos + 1 }

/-- The meaning of an encoder action. -/
def runEnc (a : EncAction) (s : State) : Host.Outcome State Fault Refusal :=
  match a with
  | .idle _ _ _ => execEncIdle s
  | .badstateNotype _ _ _ => execEncBadstateNotype s
  | .badstateMarkip _ _ => execEncBadstateMarkip s
  | .mark t _ _ => execEncMark t s
  | .sub _ _ _ => execEncSub s
  | .close _ _ => execEncClose s
  | .bodyEnd _ => execEncBodyEnd s
  | .bodyEsc _ => execEncBodyEsc s
  | .bodyLit _ c => execEncBodyLit c s

/-- TX_EMIT (R174): the action of the first ENC row its word matches. -/
def execTxEmit (s : State) : Host.Outcome State Fault Refusal :=
  runEnc (decodeEnc s.conf (txWord s)) s

/-- `k` for a producer the block has; any other number is refused (R82). -/
def whenProducer (p : Nat) (s : State) (k : State → State) : Host.Outcome State Fault Refusal :=
  if p < s.conf.nprod then whenEnabled s k else .refused (.illegalOperand (.noSuchProducer p))

/-- The effect of `TX_SUBMIT` (R172): held while the producer has a request outstanding, and then without effect (R10). -/
def submit (p : Nat) (r : TxRequest) (s : State) : State :=
  match Store.read s.txReq p with
  | none => { s with txReq := Store.write s.txReq p r }
  | some _ => s

/-- The effect of `TX_ACQUIRE` (R173): held while the lock is taken or the producer has no request, and then without effect
(R10). -/
def acquire (p : Nat) (s : State) : State :=
  match s.txOwner, Store.read s.txReq p with
  | none, some r =>
    { s with
      txOwner := some p
      txType := some r.frame
      txPayload := r.payload
      txPos := 0
      txPhase := firstPhase r.frame }
  | none, none => s
  | some _, _ => s

/-- TX_SUBMIT (R172). -/
def execTxSubmit (p : Nat) (t : FrameType) (payload : List Byte) (s : State) : Host.Outcome State Fault Refusal :=
  whenProducer p s (submit p { frame := t, payload := payload })

/-- TX_ACQUIRE (R173). -/
def execTxAcquire (p : Nat) (s : State) : Host.Outcome State Fault Refusal :=
  whenProducer p s (acquire p)

end Sys2Proof.Machine
end

