-- ==== Sys2Proof/Machine/Dispatch.lean ====
section
/-! DEFINITION. The meaning of each instruction: one arm for each row of spec/opcode_table.json. -/

namespace Sys2Proof.Machine

-- An operand no rule of the row reads (a don't-care field of its word) stands as `_`.
def exec (i : Instr) (s : State) : Host.Outcome State Fault Refusal :=
  match i with
  -- DEC (40_decoder.md)
  | .rxBadstate _ => Sys2Proof.Machine.execRxBadstate s
  | .rxIdleEnd => Sys2Proof.Machine.execRxIdleEnd s
  | .rxIdleDiag => Sys2Proof.Machine.execRxIdleDiag s
  | .rxIdleCfg => Sys2Proof.Machine.execRxIdleCfg s
  | .rxIdleOther b => Sys2Proof.Machine.execRxIdleOther b s
  | .rxPayEsc t => Sys2Proof.Machine.execRxPayEsc t s
  | .rxPayEnd t => Sys2Proof.Machine.execRxPayEnd t s
  | .rxPayLit t b => Sys2Proof.Machine.execRxPayLit t b s
  | .rxEscSubend t => Sys2Proof.Machine.execRxEscSubend t s
  | .rxEscSubesc t => Sys2Proof.Machine.execRxEscSubesc t s
  | .rxEscBad t b => Sys2Proof.Machine.execRxEscBad t b s
  -- ENC (42_encoder.md §3)
  | .encIdle _ _ _ => Sys2Proof.Machine.execEncIdle s
  | .encBadstateNotype _ _ _ => Sys2Proof.Machine.execEncBadstateNotype s
  | .encBadstateMarkip _ _ => Sys2Proof.Machine.execEncBadstateMarkip s
  | .encMark t _ _ => Sys2Proof.Machine.execEncMark t s
  | .encSub _ _ _ => Sys2Proof.Machine.execEncSub s
  | .encClose _ _ => Sys2Proof.Machine.execEncClose s
  | .encBodyEnd _ => Sys2Proof.Machine.execEncBodyEnd s
  | .encBodyEsc _ => Sys2Proof.Machine.execEncBodyEsc s
  | .encBodyLit _ c => Sys2Proof.Machine.execEncBodyLit c s
  -- EV (41_handler.md §2 to §4)
  | .hBeginDiag => Sys2Proof.Machine.execHBeginDiag s
  | .hBeginBuf t => Sys2Proof.Machine.execHBeginBuf t s
  | .hWriteDiag b => Sys2Proof.Machine.execHWriteDiag b s
  | .hWriteBuf t b => Sys2Proof.Machine.execHWriteBuf t b s
  | .hEndDiag => Sys2Proof.Machine.execHEndDiag s
  | .hEndBuf t => Sys2Proof.Machine.execHEndBuf t s
  -- PORT (40_decoder.md §1, 41_handler.md §7, 42_encoder.md §2, 30_encoding.md R82)
  | .rx b => Sys2Proof.Machine.execRx b s
  | .consume t => Sys2Proof.Machine.execConsume t s
  | .rdbuf t k => Sys2Proof.Machine.execRdbuf t k s
  | .rdreg n => Sys2Proof.Machine.execRdreg n s
  | .txSubmit p t payload => Sys2Proof.Machine.execTxSubmit p t payload s
  | .txAcquire p => Sys2Proof.Machine.execTxAcquire p s
  | .txEmit => Sys2Proof.Machine.execTxEmit s
  | .reservedOp0 => Sys2Proof.Machine.execReservedOp0 s
  | .reservedOp8F lo => Sys2Proof.Machine.execReservedOp8F lo s

end Sys2Proof.Machine
end

