-- ==== Sys2Proof/Machine/Enabled.lean ====
section
/-! DEFINITION. When an operation is held (00_scope.md R9): it has no step in the state at hand, and the step of another
agent can enable it. -/

namespace Sys2Proof.Machine

/-- The operation is held in `s`: `TX_SUBMIT` while the producer has a request outstanding (R172), `TX_ACQUIRE` while the
lock is taken or the producer has no request (R173), `TX_EMIT` while no frame is in flight (R182). A word that names an
absent producer is refused (R82), and with `FAULT = 1` no operation waits any more (R208). -/
def isHeld (i : Instr) (s : State) : Bool :=
  !s.fault &&
  match i with
  | .rxBadstate _ | .rxIdleEnd | .rxIdleDiag | .rxIdleCfg | .rxIdleOther _ | .rxPayEsc _ | .rxPayEnd _
  | .rxPayLit _ _ | .rxEscSubend _ | .rxEscSubesc _ | .rxEscBad _ _ => false
  | .encIdle _ _ _ => true
  | .encBadstateNotype _ _ _ | .encBadstateMarkip _ _ | .encMark _ _ _ | .encSub _ _ _
  | .encClose _ _ | .encBodyEnd _ | .encBodyEsc _ | .encBodyLit _ _ => false
  | .hBeginDiag | .hBeginBuf _ | .hWriteDiag _ | .hWriteBuf _ _ | .hEndDiag | .hEndBuf _ => false
  | .rx _ | .consume _ | .rdbuf _ _ | .rdreg _ => false
  | .txSubmit p _ _ => decide (p < s.conf.nprod) && (Store.read s.txReq p).isSome
  | .txAcquire p => decide (p < s.conf.nprod) && (s.txOwner.isSome || (Store.read s.txReq p).isNone)
  | .txEmit => decide (s.txPhase = .idle)
  | .reservedOp0 | .reservedOp8F _ => false

end Sys2Proof.Machine
end

