-- ==== Sys2Proof/Machine/Fetch.lean ====
section
/-! DEFINITION. How the next operation is taken: of the presented words the oldest that is not held is decoded, and the rest
stay presented (20_memory.md R57, 00_scope.md R9, 60_exceptions.md R211); and how a single word of opcode_table.json is
placed so that it is the next one taken. -/

namespace Sys2Proof.Machine

/-- The presented word spells an operation that is held in `s` (R9). A word that spells none does not wait: it is refused
(R82). -/
def waits (s : State) (w : Presented) : Bool :=
  match decode s.conf w.code with
  | .ok i => isHeld i s
  | .error _ => false

/-- Of the words presented, oldest first, the oldest that does not wait, and the others in their order. -/
def selectEnabled (s : State) : List Presented → Option (Presented × List Presented)
  | [] => none
  | w :: rest =>
    if waits s w then
      match selectEnabled s rest with
      | some (v, others) => some (v, w :: others)
      | none => none
    else some (w, rest)

/-- What a step finds: an instruction with the state it runs in, or an outcome without one. No step is defined for an
ill-formed configuration (R7); with `FAULT = 1` there is no further step (R208); where every presented word is held, or
nothing is presented, the block waits and nothing changes (R9, R231); an event word that spells no event raises PROTOCOL
(R82). A word that is held is never taken, so that a later step runs it once it is enabled. -/
def fetch (s : State) : Except (Host.Outcome State Fault Refusal) (Instr × State) :=
  if s.conf.wf then
    if s.fault then .error (.fault (.halted s.faultCause))
    else
      match selectEnabled s s.pending with
      | none => .error (.next s)
      | some (w, others) =>
        let taken : State := { s with pending := others, reply := .none }
        match w with
        | .port w =>
          match decodePort s.conf w with
          | .ok i => .ok (i, taken)
          | .error e => .error (.refused (.illegalOperand e))
        | .event w =>
          match decodeEv w with
          | .ok a => .ok (a.toInstr, taken)
          | .error _ => .error (.next (taken.raiseFault .protocol))
  else .error (.refused .illFormedConfiguration)

namespace State

/-- `s` with `w` presented ahead of what is pending. -/
def present (s : State) (w : Presented) : State := { s with pending := w :: s.pending }

/-- `s` where the next step is the `RX` whose decode word is `w` (R73): `DSTATE` is the word's, the open frame is the
word's type, and the word's byte is presented. -/
def placeDec (s : State) (w : BitVec 11) : State :=
  let d := DState.ofCode (w.extractLsb' 8 3)
  { s with dstate := d, hopen := d.frame }.present (.port { op := 0x1, b := w.extractLsb' 0 8 })

/-- `s` where the next step is the `TX_EMIT` whose encode word is `w` (R74): the sequencer's phase and type are the word's,
and its payload is exhausted or has the word's byte next. -/
def placeEnc (s : State) (w : BitVec 13) : State :=
  { s with
    txPhase := TxPhase.ofCode (w.extractLsb' 11 2)
    txType := frameOfCode (w.extractLsb' 9 2)
    txPayload := if w.getLsbD 8 then [] else [w.extractLsb' 0 8]
    txPos := 0 }.present (.port { op := 0x7 })

/-- `s` where the next word taken is `w` (a `TX_EMIT` that is held waits, log 13). -/
def place (s : State) : CodeWord → State
  | .dec w => s.placeDec w
  | .enc w => s.placeEnc w
  | .ev w => s.present (.event w)
  | .port w => s.present (.port w)

end State

end Sys2Proof.Machine
end

