-- ==== Sys2Proof/Machine/Step.lean ====
section
/-! DEFINITION. One step of the block, and the placement of one word of opcode_table.json. -/

namespace Sys2Proof.Machine

/-- One step: the oldest presented operation that is not held, taken whole (R57). -/
def step (s : State) : Host.Outcome State Fault Refusal :=
  match fetch s with
  | .ok (i, taken) => exec i taken
  | .error o => o

/-- `s` with the word of `nbits` bits and value `w`, as opcode_table.json numbers it, placed to be the next one taken; a
number that is no word of any format changes nothing. -/
def State.withFetchWord (s : State) (nbits w : Nat) : State :=
  match tableWord nbits w with
  | some cw => s.place cw
  | none => s

end Sys2Proof.Machine
end

