-- ==== Sys2Proof/Machine/Program.lean ====
section
/-! DEFINITION. Programs: the notation with its pseudo-operations (30_encoding.md R85, R86), how a program runs in the order
it is written, and the execution of a plain sequence of operations. -/

namespace Sys2Proof.Machine

/-- `rxs [b0, ..., bk]` (R86). -/
def rxs (bs : List Byte) : List Instr := bs.map Instr.rx

/-- Execute a sequence of operations, up to the first that has no next state. An operation that is held has no effect in it;
`runProgram` is the execution that waits at one. -/
def execAll : List Instr → State → Host.Outcome State Fault Refusal
  | [], s => .next s
  | i :: rest, s =>
    match exec i s with
    | .next s' => execAll rest s'
    | .fault r => .fault r
    | .refused r => .refused r

/-- A line of a program: one operation (R85), or a pseudo-operation (R86). -/
inductive Line where
  | op (i : Instr)
  | rxs (bs : List Byte)
  | emitFrame
  | send (p : Nat) (t : FrameType) (payload : List Byte)
  deriving DecidableEq, Repr

/-- The operation a program has next in `s`, and the lines left after it (R86). `emit_frame` is `tx_emit` again and again
until `TX_PHASE = 00`, so it expands to nothing where the phase is 00 already; `send` is `tx_submit`, `tx_acquire` and
`emit_frame`. -/
def issue (s : State) : List Line → Option (Instr × List Line)
  | [] => none
  | .op i :: rest => some (i, rest)
  | .rxs [] :: rest => issue s rest
  | .rxs (b :: bs) :: rest => some (.rx b, .rxs bs :: rest)
  | .emitFrame :: rest => if s.txPhase = .idle then issue s rest else some (.txEmit, .emitFrame :: rest)
  | .send p t payload :: rest => some (.txSubmit p t payload, .op (.txAcquire p) :: .emitFrame :: rest)

/-- Where a program stands after some operations. -/
inductive Progress where
  /-- Its operations are done. -/
  | finished (s : State)
  /-- The lines are left, and the next operation has a step. -/
  | running (left : List Line) (s : State)
  /-- The next operation of the lines left is held (R9): only the step of another agent lets the program go on. -/
  | held (left : List Line) (s : State)
  | fault (r : Fault)
  | refused (r : Refusal)
  deriving DecidableEq, Repr

/-- Run a program for at most so many operations. It waits at an operation that is held, and nothing after it is run. -/
def runProgram : Nat → List Line → State → Progress
  | fuel, prog, s =>
    match issue s prog with
    | none => .finished s
    | some (i, rest) =>
      if isHeld i s then .held prog s
      else
        match fuel with
        | 0 => .running prog s
        | n + 1 =>
          match exec i s with
          | .next s' => runProgram n rest s'
          | .fault r => .fault r
          | .refused r => .refused r

end Sys2Proof.Machine
end

