-- ==== Sys2Proof/Safety.lean ====
section
/-! DEFINITION. The terms claims use: runs and their ends (70_reset_and_hazards.md R241), what belongs to the receive and
to the transmit path (42_encoder.md R187), where an `RX` stores, the sequence of handler events (40_decoder.md R114), the
frames on the wire (42_encoder.md R184), and the invariants of the block. -/

namespace Sys2Proof.Machine

/-! ## Runs -/

/-- `ops` is a run from `s` that ends in `s'` (R241): PORT operations, each enabled at its point. -/
def IsRun : List Instr → State → State → Prop
  | [], s, s' => s' = s
  | i :: rest, s, s' =>
    i.isPort = true ∧ i.wf s.conf = true ∧ isHeld i s = false ∧ ∃ u, exec i s = .next u ∧ IsRun rest u s'

/-- A run from construction under `c` that ends correctly (R241): nothing refused, and `FAULT = 0` at its end. -/
def EndsCorrectly (c : Config) (ops : List Instr) (s' : State) : Prop :=
  IsRun ops (State.constructed c) s' ∧ s'.fault = false

/-- A quiescent end (R241). -/
def Quiescent (s : State) : Prop :=
  s.fault = false ∧ s.dstate = .idle ∧ s.txPhase = .idle ∧ ∀ p, Store.read s.txReq p = none

/-! ## The two paths -/

/-- What belongs to the receive path (R187): the decoder, the accumulator and its streams. -/
structure RxSide where
  dstate : DState
  hopen : Option FrameType
  ferr : ErrorSet
  cfgSlot : Slot
  ipSlot : Slot
  ev : List Event
  diagOut : List Byte
  notify : List BufType
  deriving DecidableEq, Repr

/-- What belongs to the transmit path (R187): the requests, the sequencer and its streams. -/
structure TxSide where
  txReq : Store TxRequest
  txOwner : Option Nat
  txPhase : TxPhase
  txType : Option FrameType
  txPayload : List Byte
  txPos : Nat
  txSubb : Byte
  wire : List Byte
  txDone : List Nat
  deriving DecidableEq, Repr

/-- The receive path of a state. -/
def State.rxSide (s : State) : RxSide where
  dstate := s.dstate
  hopen := s.hopen
  ferr := s.ferr
  cfgSlot := s.cfgSlot
  ipSlot := s.ipSlot
  ev := s.ev
  diagOut := s.diagOut
  notify := s.notify

/-- The transmit path of a state. -/
def State.txSide (s : State) : TxSide where
  txReq := s.txReq
  txOwner := s.txOwner
  txPhase := s.txPhase
  txType := s.txType
  txPayload := s.txPayload
  txPos := s.txPos
  txSubb := s.txSubb
  wire := s.wire
  txDone := s.txDone

/-! ## Handler events of the decoder -/

/-- The event `HWrite(t, b)` as an instruction. -/
def writeEvent : FrameType → Byte → Instr
  | .diag, b => .hWriteDiag b
  | .buf t, b => .hWriteBuf t b

/-- The event `HEnd(t)` as an instruction. -/
def endEvent : FrameType → Instr
  | .diag => .hEndDiag
  | .buf t => .hEndBuf t

/-- The decoder's transition table (R113): the next state and the events for a byte `b` in state `d`, where `e` is the
error set of the open frame. -/
def decoderStep (c : Config) (d : DState) (b : Byte) (e : ErrorSet) : DState × List Event :=
  match d with
  | .unused => (.unused, [])
  | .idle =>
    if b = c.endByte then (.idle, [])
    else if b = c.diagMarker then (.pay .diag, [.beginFrame .diag])
    else if b = c.cfgMarker then (.pay (.buf .cfg), [.beginFrame (.buf .cfg)])
    else (.pay (.buf .ip), [.beginFrame (.buf .ip), .writeByte (.buf .ip) b])
  | .pay t =>
    if b = c.escByte then (.esc t, [])
    else if b = c.endByte then (.idle, [.endFrame t e])
    else (.pay t, [.writeByte t b])
  | .esc t =>
    if b = c.escEnd then (.pay t, [.writeByte t c.endByte])
    else if b = c.escEsc then (.pay t, [.writeByte t c.escByte])
    else (.pay t, [.writeByte t b])

/-- The cell `HWrite(t, ·)` stores to in `s`, where the contract check passes (R135): the write offset, unless the frame is
being discarded or the buffer is full. -/
def writeStoresAt (t : FrameType) (s : State) : Option (BufType × Nat) :=
  match t with
  | .diag => none
  | .buf t =>
    if s.ferr.busy = false ∧ (s.slot t).idx.toNat < cap s.conf t then some (t, (s.slot t).idx.toNat) else none

/-- The cell a decoder action stores to in `s`, where the contract check passes: for the first byte of an IP frame the
offset is 0, since `HBegin` restarts it (R104, R133). -/
def decStoresAt (a : DecAction) (s : State) : Option (BufType × Nat) :=
  match a with
  | .badstate _ | .idleEnd | .idleDiag | .idleCfg | .payEsc _ | .payEnd _ => none
  | .idleOther _ => if s.ipSlot.ready then none else some (.ip, 0)
  | .payLit t _ => writeStoresAt t s
  | .escSubend t => writeStoresAt t s
  | .escSubesc t => writeStoresAt t s
  | .escBad t _ => writeStoresAt t s

/-- The cell an instruction stores to in `s`, where the contract check passes; `none` for a form that stores nothing. -/
def storesAt (i : Instr) (s : State) : Option (BufType × Nat) :=
  match i with
  | .rxBadstate _ | .rxIdleEnd | .rxIdleDiag | .rxIdleCfg | .rxPayEsc _ | .rxPayEnd _ => none
  | .rxIdleOther b => decStoresAt (.idleOther b) s
  | .rxPayLit t _ => writeStoresAt t s
  | .rxEscSubend t => writeStoresAt t s
  | .rxEscSubesc t => writeStoresAt t s
  | .rxEscBad t _ => writeStoresAt t s
  | .encIdle _ _ _ | .encBadstateNotype _ _ _ | .encBadstateMarkip _ _ | .encMark _ _ _ | .encSub _ _ _
  | .encClose _ _ | .encBodyEnd _ | .encBodyEsc _ | .encBodyLit _ _ => none
  | .hBeginDiag | .hBeginBuf _ | .hWriteDiag _ | .hEndDiag | .hEndBuf _ => none
  | .hWriteBuf t _ => writeStoresAt (.buf t) s
  | .rx b => decStoresAt (decodeDec s.conf (rxWord s b)) s
  | .consume _ | .rdbuf _ _ | .rdreg _ | .txSubmit _ _ _ | .txAcquire _ | .txEmit => none
  | .reservedOp0 | .reservedOp8F _ => none

/-- The bytes the `RX` operations of a sequence present, in order. -/
def rxBytes : List Instr → List Byte
  | [] => []
  | .rx b :: rest => b :: rxBytes rest
  | _ :: rest => rxBytes rest

/-- The payload bytes of the frame that is open, or of the last one, as the event stream shows them. -/
def frameBytes (ev : List Event) : List Byte :=
  ev.foldl (fun acc e =>
    match e with
    | .beginFrame _ => []
    | .writeByte _ b => acc ++ [b]
    | .endFrame _ _ => acc) []

/-- The form of the event stream (R114): whole frames, then at most one open frame, whose type is the second argument. -/
inductive EvShape : List Event → Option FrameType → Prop where
  | empty : EvShape [] none
  | opened (ev : List Event) (t : FrameType) (h : EvShape ev none) : EvShape (ev ++ [.beginFrame t]) (some t)
  | wrote (ev : List Event) (t : FrameType) (b : Byte) (h : EvShape ev (some t)) :
      EvShape (ev ++ [.writeByte t b]) (some t)
  | closed (ev : List Event) (t : FrameType) (e : ErrorSet) (h : EvShape ev (some t)) :
      EvShape (ev ++ [.endFrame t e]) none

/-! ## The frames on the wire -/

/-- The bytes of the frame in flight that are on the wire (R175 to R180). -/
def emittedBytes (s : State) : List Byte :=
  match s.txPhase, s.txType with
  | .idle, _ => []
  | .mark, _ => []
  | .body, some t => marker s.conf t ++ (s.txPayload.take s.txPos).flatMap (escape s.conf)
  | .sub, some t => marker s.conf t ++ (s.txPayload.take (s.txPos - 1)).flatMap (escape s.conf) ++ [s.conf.escByte]
  | .body, none => []
  | .sub, none => []

/-- `WIRE` is the whole frames of `sent`, in order, followed by what is out of the frame in flight (R184). -/
def WireHolds (sent : List TxRequest) (s : State) : Prop :=
  s.wire = sent.flatMap (fun r => wireFrame s.conf r.frame r.payload) ++ emittedBytes s

/-! ## Invariants -/

/-- What holds of the receive path's registers in every state a run reaches (R21, R22, R207). -/
structure RxInv (s : State) : Prop where
  /-- Only operations of the ports are pending (R130). -/
  noEvents : ∀ w ∈ s.pending, ∃ p, w = .port p
  /-- `HOPEN = DSTATE[2:1]` (R22). -/
  openFrame : s.hopen = s.dstate.frame
  /-- `DSTATE` is one of the seven states (R20, R21). -/
  legalState : s.dstate ≠ .unused
  /-- A diagnostic frame raises no kind but `ESC` (R202, R204). -/
  diagErrors : s.hopen = some .diag → s.ferr.ovf = false ∧ s.ferr.busy = false
  /-- A busy frame never carries `OVF` (R207). -/
  busyNoOverflow : s.ferr.busy = true → s.ferr.ovf = false

/-- What holds of one frame type's buffer and registers (R24 to R28, R53, R138). -/
structure SlotInv (t : BufType) (s : State) : Prop where
  /-- The buffer is in its canonical form. -/
  bufWf : (s.slot t).buf.wf
  /-- No cell outside the buffer's bounds is written (R53). -/
  bufBound : ∀ cell ∈ (s.slot t).buf, cell.1 < cap s.conf t
  /-- `IDX_t ≤ P_t_CAP` (R24). -/
  idxLe : (s.slot t).idx.toNat ≤ cap s.conf t
  /-- `LEN_t ≤ P_t_CAP` (R27). -/
  lenLe : (s.slot t).len.toNat ≤ cap s.conf t
  /-- Every cell of a delivered frame is written (R25). -/
  delivered : (s.slot t).ready = true → ∀ i, i < (s.slot t).len.toNat → ((s.slot t).buf.read i).isSome = true
  /-- While a frame is stored its buffer holds no undrained frame, and every cell below the offset is written (R59). -/
  storing : s.hopen = some (.buf t) → s.ferr.busy = false →
    (s.slot t).ready = false ∧ ∀ i, i < (s.slot t).idx.toNat → ((s.slot t).buf.read i).isSome = true
  /-- Without delivery of errored frames `ERR_t` is empty (R28). -/
  errClean : s.conf.deliverErrored = false → (s.slot t).err = .empty

/-- What holds of the transmit sequencer (R30, R31). -/
structure TxInv (s : State) : Prop where
  /-- `TX_OWNER` is none exactly in TX idle (R31). -/
  ownerIdle : s.txOwner = none ↔ s.txPhase = .idle
  /-- `TX_POS ≤ |TX_PAYLOAD|` (R31). -/
  posLe : s.txPos ≤ s.txPayload.length
  /-- The frame in flight is its owner's request (R173, R180). -/
  ownerRequest : ∀ p, s.txOwner = some p →
    ∃ r, Store.read s.txReq p = some r ∧ s.txType = some r.frame ∧ s.txPayload = r.payload
  /-- In phase MARK nothing is consumed and the type has a marker (R173). -/
  markStart : s.txPhase = .mark → s.txPos = 0 ∧ s.txType ≠ some (.buf .ip)
  /-- In phase SUB the byte consumed last is the one whose substitute waits (R176, R177). -/
  subLast : s.txPhase = .sub →
    ∃ b, 0 < s.txPos ∧ s.txPayload[s.txPos - 1]? = some b ∧ escape s.conf b = [s.conf.escByte, s.txSubb]
  /-- The requests are in their canonical form. -/
  reqWf : Store.wf s.txReq
  /-- Only producers of the block have requests (R30). -/
  reqBound : ∀ e ∈ s.txReq, e.1 < s.conf.nprod

/-- The invariant of the block: it holds at construction and every step keeps it. -/
structure Inv (s : State) : Prop where
  /-- The configuration is one a block may have (R7). -/
  confWf : s.conf.wf = true
  rx : RxInv s
  cfg : SlotInv .cfg s
  ip : SlotInv .ip s
  tx : TxInv s
  /-- `FAULT` and `FAULT_CAUSE` agree, and the only fault a run takes is a consumer's (R114, R111, R181). -/
  onlyConsumerFault : s.faultCause = if s.fault then some .consumerContract else none

/-- The content of the frame that is being stored (R138, R144): the offset counts its bytes up to the capacity, `OVF` says
that there were more, and the cells below the offset hold them in arrival order. -/
def StoredContent (t : BufType) (s : State) : Prop :=
  s.hopen = some (.buf t) → s.ferr.busy = false →
    (s.slot t).idx.toNat = min (frameBytes s.ev).length (cap s.conf t) ∧
    (s.ferr.ovf = true ↔ cap s.conf t < (frameBytes s.ev).length) ∧
    ∀ k, k < (s.slot t).idx.toNat → (s.slot t).buf.read k = (frameBytes s.ev)[k]?

end Sys2Proof.Machine
end

