-- ==== Sys2Proof/Certificates/Slice0/Obligations.lean ====
section
/-! DEFINITION. The statements about the block, one for each entry of OBLIGATIONS.json. A statement over every state holds for
every configuration a state carries and for every value of the free values. Where a docstring says "the spec's own", the
rule it names is marked in the spec as derived from other rules or as a decision of 92_eei_decisions.md, or rests on an
entry of the assumption log; such a statement has basis 'derived'. -/

open Sys2Proof Sys2Proof.Machine

/-! ## Encoding -/

/-- 30_encoding.md: an instruction is read back whole from its word, in all four formats. -/
def Obligations.DecodeInvertsEncode : Prop :=
  ∀ (c : Config) (i : Instr), c.wf = true → i.wf c = true → decode c (encode c i) = .ok i

/-- R73, R74, R79, R80: every DEC and every ENC word spells exactly one instruction, and no bit of it is dropped. -/
def Obligations.EncodeInvertsDecodeOnFormedWords : Prop :=
  ∀ c : Config,
    (∀ w : BitVec 11, (decodeDec c w).toInstr.wf c = true ∧ encode c (decodeDec c w).toInstr = .dec w) ∧
    (∀ w : BitVec 13, (decodeEnc c w).toInstr.wf c = true ∧ encode c (decodeEnc c w).toInstr = .enc w)

/-- R79, R80: an `RX` and a `TX_EMIT` select the first row, in the printed priority order, with `W & mask = match`,
and perform its action. The same of the EV rows of R81; an EV word that matches no row is no event. -/
def Obligations.DecodersTakeTheFirstMatchingRow : Prop :=
  (∀ (s : State) (b : Byte), exec (.rx b) s = exec (decodeDec s.conf (decWord s.dstate b)).toInstr s) ∧
  (∀ (s : State), exec .txEmit s = exec (decodeEnc s.conf (txWord s)).toInstr s) ∧
  (∀ (c : Config) (w : BitVec 11), firstRow w (decRows c) = (decodeDec c w).row) ∧
  (∀ (c : Config) (w : BitVec 13), firstRow w (encRows c) = (decodeEnc c w).row) ∧
  (∀ w : BitVec 13, firstRow w evRows = match decodeEv w with | .ok a => a.row | .error _ => 0)

/-- Words of 95_test_vectors.md, one or more of each format, decode to the instruction their vector names. The clause
on 0x7DD (`RX_ESC_SUBESC`) rests on `P_ESC_ESC = 0xDD`, which the spec takes from general knowledge (G3) and log 2
marks PRESUMED. -/
def Obligations.PrintedWordsDecode : Prop :=
  decode Config.spec (.dec 0x4DB) = .ok (.rxPayEsc (.buf .cfg)) ∧
  decode Config.spec (.dec 0x7DD) = .ok (.rxEscSubesc (.buf .ip)) ∧
  decode Config.spec (.dec 0x0DB) = .ok (.rxIdleOther 0xDB) ∧
  decode Config.spec (.enc 0x0CC0) = .ok (.encMark (.buf .cfg) false 0xC0) ∧
  decode Config.spec (.enc 0x1F00) = .ok (.encSub (.buf .ip) true 0x00) ∧
  decode Config.spec (.ev 0x1241) = .ok (.hWriteDiag 0x41) ∧
  decode Config.spec (.ev 0x1E00) = .ok (.hEndBuf .ip) ∧
  decode Config.spec (.port { op := 3, t := 2, i := 1 }) = .ok (.rdbuf .cfg 1)

/-! ## A step -/

/-- A step is the execution of the instruction that a presented word spells, taken whole (R57): of the oldest word
that is not held (R9, R211), whatever held words stand before it, which stay presented. That words stand in a list,
that the oldest enabled one is taken and that the last answer is cleared is the model's own choice (logs 3 and 4); so
is that an event word may be presented (log 6). -/
def Obligations.StepRunsThePresentedInstruction : Prop :=
  ∀ (s : State) (before after : List Presented) (w : Presented) (i : Instr),
    s.conf.wf = true → s.fault = false → s.pending = before ++ w :: after →
    (∀ v ∈ before, ∃ j, decode s.conf v.code = .ok j ∧ isHeld j s = true) →
    decode s.conf w.code = .ok i → isHeld i s = false →
    step s = exec i { s with pending := before ++ after, reply := .none }

/-- With nothing presented the block waits (R231), and so it does where every presented operation is held (R9, R182):
nothing changes, no word is used up, and a held operation has no step. (That the model's step then answers the same
state is its own choice, logs 3 and 4.) -/
def Obligations.StepWithNothingPresentedWaits : Prop :=
  ∀ s : State, s.conf.wf = true → s.fault = false →
    (∀ w ∈ s.pending, ∃ i, decode s.conf w.code = .ok i ∧ isHeld i s = true) → step s = .next s

/-- R208: a raise writes `FAULT` and `FAULT_CAUSE` and saves nothing else, whatever the cause (an event out of
sequence, the unused decoder state, a sequencer state of R181, a read with no delivered frame); the effects before the
raise are kept (the `ESC` of R110, the write of `DSTATE` of R102); once `FAULT = 1` no operation of any port has a
step; and a faulted state is never a correct end of a run. -/
def Obligations.FaultEntryIsFinal : Prop :=
  (∀ s : State, s.fault = false →
    (s.hopen ≠ none → exec .hBeginDiag s = .next { s with fault := true, faultCause := some .protocol }) ∧
    (∀ b, s.dstate = .unused → exec (.rx b) s = .next { s with fault := true, faultCause := some .badDstate }) ∧
    (s.txPhase = .body → s.txType = none →
      exec .txEmit s = .next { s with fault := true, faultCause := some .badTxstate }) ∧
    (∀ t i, (s.slot t).ready = false →
      exec (.rdbuf t i) s = .next { s with fault := true, faultCause := some .consumerContract }) ∧
    (∀ t b, s.hopen ≠ some t → exec (.rxEscBad t b) s = .next { s with
      ferr := { s.ferr with esc := true }, fault := true, faultCause := some .protocol }) ∧
    (s.hopen ≠ none → exec .rxIdleDiag s = .next { s with
      dstate := .pay .diag, fault := true, faultCause := some .protocol })) ∧
  (∀ s : State, s.fault = true →
    (s.conf.wf = true → step s = .fault (.halted s.faultCause)) ∧
    ∀ i : Instr, i.wf s.conf = true → i ≠ .reservedOp0 → (∀ lo, i ≠ .reservedOp8F lo) →
      exec i s = .fault (.halted s.faultCause)) ∧
  (∀ (c : Config) (ops : List Instr) (s : State), s.fault = true → ¬ EndsCorrectly c ops s)

/-- R82 (D17, the spec's own codes): a reserved `OP`, an illegal `t`, a reserved register number and a producer number
the block does not have are refused, each by name; a presented EV word with `k = 00` or `t = 00` raises PROTOCOL. -/
def Obligations.ReservedAndIllegalWordsAreRefused : Prop :=
  ∀ (s : State) (rest : List Presented), s.conf.wf = true → s.fault = false →
    (∀ w : PortWord, s.pending = .port w :: rest →
      (w.op = 0 ∨ 8 ≤ w.op.toNat → step s = .refused (.reservedOperation w.op)) ∧
      (w.op = 2 ∨ w.op = 3 → w.t.toNat < 2 → step s = .refused (.illegalOperand (.illegalFrameType w.t))) ∧
      (w.op = 4 → 5 ≤ w.n.toNat → step s = .refused (.illegalOperand (.reservedRegister w.n))) ∧
      (w.op = 5 → w.t = 0 → step s = .refused (.illegalOperand (.illegalFrameType w.t))) ∧
      (w.op = 5 → w.t ≠ 0 → s.conf.nprod ≤ w.p → step s = .refused (.illegalOperand (.noSuchProducer w.p))) ∧
      (w.op = 6 → s.conf.nprod ≤ w.p → step s = .refused (.illegalOperand (.noSuchProducer w.p)))) ∧
    (∀ w : BitVec 13, s.pending = .event w :: rest → w.extractLsb' 11 2 = 0 ∨ w.extractLsb' 9 2 = 0 →
      step s = .next { s with
        pending := rest, reply := .none, fault := true, faultCause := some .protocol })

/-- R82, R205 (D17, the spec's own codes): the reserved operation codes spell no operation; in every state they are
refused. -/
def Obligations.ReservedOperationsAreRefused : Prop :=
  ∀ s : State,
    exec .reservedOp0 s = .refused (.reservedOperation 0) ∧
    ∀ lo : BitVec 3, exec (.reservedOp8F lo) s = .refused (.reservedOperation (BitVec.ofNat 4 (8 + lo.toNat)))

/-- R7 (WF2 and WF3 the spec's own, D5; with the ranges of R6): a configuration is well formed exactly when WF1, WF2
and WF3 hold and its numbers are in range; the spec's values are; under any other no step is defined. -/
def Obligations.IllFormedConfigurationIsRefused : Prop :=
  (∀ c : Config, c.wf = true ↔
    [c.endByte, c.escByte, c.diagMarker, c.cfgMarker].Nodup ∧
    c.escEnd ≠ c.escEsc ∧
    (∀ b ∈ [c.escEnd, c.escEsc], b ≠ c.endByte ∧ b ≠ c.escByte) ∧
    (1 ≤ c.cfgCap ∧ c.cfgCap ≤ 2 ^ 32 - 1) ∧ (1 ≤ c.ipCap ∧ c.ipCap ≤ 2 ^ 32 - 1) ∧ 1 ≤ c.nprod) ∧
  Config.spec.wf = true ∧
  (∀ s : State, s.conf.wf = false → step s = .refused .illFormedConfiguration)

/-- R6 (in part): the configuration is fixed at construction and no operation changes it. -/
def Obligations.StepKeepsTheConfiguration : Prop :=
  ∀ s s' : State, step s = .next s' → s'.conf = s.conf

/-- R230, R231, the spec's own (D20): at construction the decoder is in IDLE with no frame open, both buffers are free
and unwritten, the transmitter is idle with the lock free and no producer waiting, no fault is recorded and every
stream is empty. (Nothing presented and no answer are the model's own, logs 3 and 4.) -/
def Obligations.ConstructionGivesTheResetState : Prop :=
  State.reset = State.constructed Config.spec ∧
  ∀ c : Config,
    let s := State.constructed c
    s.conf = c ∧ s.dstate.code = 0#3 ∧ s.hopen = none ∧ s.ferr.code = 0#3 ∧
    (∀ t, (s.slot t).idx = 0 ∧ (s.slot t).len = 0 ∧ (s.slot t).ready = false ∧ (s.slot t).err.code = 0#3 ∧
      ∀ i, (s.slot t).buf.read i = none) ∧
    s.fault = false ∧ s.faultCause = none ∧
    (∀ p, Store.read s.txReq p = none) ∧ s.txOwner = none ∧ s.txPhase.code = 0#2 ∧ frameCode s.txType = 0#2 ∧
    s.txPayload = [] ∧ s.txPos = 0 ∧ s.txSubb = 0x00 ∧
    s.ev = [] ∧ s.diagOut = [] ∧ s.wire = [] ∧ s.notify = [] ∧ s.txDone = []

/-! ## The decoder -/

/-- R101: a bare delimiter in IDLE has no effect. -/
def Obligations.IdleDelimiterHasNoEffect : Prop :=
  ∀ s : State, s.fault = false →
    exec .rxIdleEnd s = .next s ∧ (s.dstate = .idle → exec (.rx s.conf.endByte) s = .next s)

/-- R102, R103: a marker in IDLE begins its frame; the marker is consumed, and a configuration frame that meets an
undrained buffer begins with `BUSY` and leaves the offset. With a frame open the event raises PROTOCOL after the write
of `DSTATE`. -/
def Obligations.MarkerOpensItsFrame : Prop :=
  ∀ s : State, s.fault = false → s.dstate = .idle → s.conf.wf = true →
    exec (.rx s.conf.diagMarker) s = exec .rxIdleDiag s ∧
    exec (.rx s.conf.cfgMarker) s = exec .rxIdleCfg s ∧
    (s.hopen = none →
      exec .rxIdleDiag s = .next { s with
        dstate := .pay .diag, hopen := some .diag, ferr := .empty, ev := s.ev ++ [.beginFrame .diag] } ∧
      exec .rxIdleCfg s = .next { s with
        dstate := .pay (.buf .cfg)
        hopen := some (.buf .cfg)
        ferr := if s.cfgSlot.ready then .onlyBusy else .empty
        cfgSlot := if s.cfgSlot.ready then s.cfgSlot else { s.cfgSlot with idx := 0 }
        ev := s.ev ++ [.beginFrame (.buf .cfg)] }) ∧
    (s.hopen ≠ none →
      exec .rxIdleDiag s = .next { s with
        dstate := .pay .diag, fault := true, faultCause := some .protocol } ∧
      exec .rxIdleCfg s = .next { s with
        dstate := .pay (.buf .cfg), fault := true, faultCause := some .protocol })

/-- R104: any other byte in IDLE begins an IP frame and is its first payload byte: stored at index 0, or, where the
buffer holds an undrained frame, not stored and the frame busy. With a frame open the first event raises PROTOCOL. -/
def Obligations.OtherIdleByteOpensAnIpFrame : Prop :=
  ∀ (s : State) (b : Byte), s.fault = false → s.dstate = .idle → s.conf.wf = true → s.conf.isIdleOther b = true →
    exec (.rx b) s = exec (.rxIdleOther b) s ∧
    (s.hopen = none →
      exec (.rxIdleOther b) s = .next { s with
        dstate := .pay (.buf .ip)
        hopen := some (.buf .ip)
        ferr := if s.ipSlot.ready then .onlyBusy else .empty
        ipSlot := if s.ipSlot.ready then s.ipSlot else { s.ipSlot with buf := s.ipSlot.buf.write 0 b, idx := 1 }
        ev := s.ev ++ [.beginFrame (.buf .ip), .writeByte (.buf .ip) b] }) ∧
    (s.hopen ≠ none →
      exec (.rxIdleOther b) s = .next { s with
        dstate := .pay (.buf .ip), fault := true, faultCause := some .protocol })

/-- R105: the escape-introducer in a payload state enters the escaped state, and nothing else happens. -/
def Obligations.EscapeIntroducerEntersTheEscapedState : Prop :=
  ∀ (s : State) (t : FrameType), s.fault = false →
    exec (.rxPayEsc t) s = .next { s with dstate := .esc t } ∧
    (s.dstate = .pay t → exec (.rx s.conf.escByte) s = .next { s with dstate := .esc t })

/-- R106: the delimiter in a payload state issues `HEnd(t)` and returns to IDLE; where another frame type or none is
open the event raises PROTOCOL and `DSTATE` keeps its value. -/
def Obligations.DelimiterEndsTheFrame : Prop :=
  ∀ (s : State) (t : FrameType), s.fault = false → s.conf.wf = true →
    (s.dstate = .pay t → exec (.rx s.conf.endByte) s = exec (.rxPayEnd t) s) ∧
    (s.hopen = some t → ∃ u, exec (endEvent t) s = .next u ∧
      exec (.rxPayEnd t) s = .next { u with dstate := .idle }) ∧
    (s.hopen ≠ some t → exec (.rxPayEnd t) s = .next { s with fault := true, faultCause := some .protocol })

/-- R107 to R110 (a delimiter after ESC: the spec's own, D12): a literal byte delivers itself, the END substitute
delivers `P_END`, the ESC substitute delivers `P_ESC`, and any other byte after ESC sets `FERR.ESC` and delivers
itself; each leaves the decoder in the payload state. Where another frame type or none is open the event raises
PROTOCOL; `DSTATE` keeps its value and a recorded `ESC` stays. -/
def Obligations.PayloadByteIsDelivered : Prop :=
  ∀ (s : State) (t : FrameType) (b : Byte), s.fault = false → s.conf.wf = true →
    (s.dstate = .pay t → s.conf.isLiteral b = true → exec (.rx b) s = exec (.rxPayLit t b) s) ∧
    (s.dstate = .esc t → exec (.rx s.conf.escEnd) s = exec (.rxEscSubend t) s ∧
      exec (.rx s.conf.escEsc) s = exec (.rxEscSubesc t) s) ∧
    (s.dstate = .esc t → s.conf.isEscapeViolation b = true → exec (.rx b) s = exec (.rxEscBad t b) s) ∧
    (s.hopen = some t →
      (∃ u, exec (writeEvent t b) s = .next u ∧ exec (.rxPayLit t b) s = .next u) ∧
      (∃ u, exec (writeEvent t s.conf.endByte) s = .next u ∧
        exec (.rxEscSubend t) s = .next { u with dstate := .pay t }) ∧
      (∃ u, exec (writeEvent t s.conf.escByte) s = .next u ∧
        exec (.rxEscSubesc t) s = .next { u with dstate := .pay t }) ∧
      (∃ u, exec (writeEvent t b) { s with ferr := { s.ferr with esc := true } } = .next u ∧
        exec (.rxEscBad t b) s = .next { u with dstate := .pay t })) ∧
    (s.hopen ≠ some t →
      exec (.rxPayLit t b) s = .next { s with fault := true, faultCause := some .protocol } ∧
      exec (.rxEscSubend t) s = .next { s with fault := true, faultCause := some .protocol } ∧
      exec (.rxEscSubesc t) s = .next { s with fault := true, faultCause := some .protocol } ∧
      exec (.rxEscBad t b) s = .next { s with
        ferr := { s.ferr with esc := true }, fault := true, faultCause := some .protocol })

/-- R111 (the spec's own, D21): the unused decoder state raises BAD_DSTATE, whatever the byte. -/
def Obligations.UnusedDecoderStateFaults : Prop :=
  ∀ (s : State) (b : Byte), s.fault = false →
    exec (.rxBadstate b) s = .next { s with fault := true, faultCause := some .badDstate } ∧
    (s.dstate = .unused → exec (.rx b) s = .next { s with fault := true, faultCause := some .badDstate })

/-- R113, the spec's own derivation: the decoder's next state and events are the table's, for every state and byte;
the open frame stays the one `DSTATE` names, and the escape violation sets `FERR.ESC`. -/
def Obligations.DecoderFollowsTheTransitionTable : Prop :=
  ∀ (s : State) (b : Byte), s.fault = false → s.dstate ≠ .unused → s.hopen = s.dstate.frame →
    ∃ s', exec (.rx b) s = .next s' ∧ s'.fault = false ∧
      s'.dstate = (decoderStep s.conf s.dstate b s.ferr).1 ∧
      s'.ev = s.ev ++ (decoderStep s.conf s.dstate b s.ferr).2 ∧
      s'.hopen = s'.dstate.frame ∧
      (∀ t, s.dstate = .esc t → s.conf.isEscapeViolation b = true → s'.ferr.esc = true)

/-- R112, the spec's own derivation: one `RX` issues no event (a delimiter in IDLE, an escape-introducer in a payload
state), two events (the first byte of an IP frame: BEGIN, then WRITE of that byte), and one event in every other case.
-/
def Obligations.EventsPerByte : Prop :=
  ∀ (s : State) (b : Byte), s.fault = false → s.conf.wf = true → s.dstate ≠ .unused → s.hopen = s.dstate.frame →
    ∃ s' es, exec (.rx b) s = .next s' ∧ s'.ev = s.ev ++ es ∧
      (s.dstate = .idle → b = s.conf.endByte → es = []) ∧
      (∀ t, s.dstate = .pay t → b = s.conf.escByte → es = []) ∧
      (s.dstate = .idle → s.conf.isIdleOther b = true →
        es = [.beginFrame (.buf .ip), .writeByte (.buf .ip) b]) ∧
      (¬ (s.dstate = .idle ∧ (b = s.conf.endByte ∨ s.conf.isIdleOther b = true)) →
        ¬ (b = s.conf.escByte ∧ ∃ t, s.dstate = .pay t) → es.length = 1)

/-- R115, the spec's own derivation: from IDLE and from any payload state the next delimiter leads to IDLE; from an
escaped state the delimiter is delivered as payload, and the next one leads to IDLE. -/
def Obligations.DelimiterResynchronises : Prop :=
  ∀ (s : State), s.fault = false → s.conf.wf = true → s.hopen = s.dstate.frame →
    (s.dstate = .idle ∨ (∃ t, s.dstate = .pay t) →
      ∃ s', exec (.rx s.conf.endByte) s = .next s' ∧ s'.fault = false ∧ s'.dstate = .idle ∧ s'.hopen = none) ∧
    (∀ t, s.dstate = .esc t →
      ∃ u s', exec (.rx s.conf.endByte) s = .next u ∧ u.dstate = .pay t ∧
        u.ev = s.ev ++ [.writeByte t s.conf.endByte] ∧
        exec (.rx s.conf.endByte) u = .next s' ∧ s'.fault = false ∧ s'.dstate = .idle ∧ s'.hopen = none)

/-! ## The frame accumulator -/

/-- R132, R133 (the busy frame: the spec's own, D10): a begin event opens its frame, clears `FERR` and is recorded;
for a buffered type the write offset restarts, unless the buffer holds an undrained frame: then `FERR` is exactly
`BUSY` and the offset stays. -/
def Obligations.BeginEventOpensAFrame : Prop :=
  ∀ s : State, s.fault = false → s.hopen = none →
    exec .hBeginDiag s = .next { s with
      hopen := some .diag, ferr := .empty, ev := s.ev ++ [.beginFrame .diag] } ∧
    ∀ t : BufType, ∃ s', exec (.hBeginBuf t) s = .next s' ∧
      s' = ({ s with
        hopen := some (.buf t)
        ferr := if (s.slot t).ready then .onlyBusy else .empty
        ev := s.ev ++ [.beginFrame (.buf t)] } : State).setSlot t
          { s.slot t with idx := if (s.slot t).ready then (s.slot t).idx else 0 }

/-- R134 (the unbounded sink: the spec's own, D13): a diagnostic byte is recorded and pushed to the diagnostic sink;
nothing is stored and no flag changes. -/
def Obligations.DiagnosticByteGoesToTheSink : Prop :=
  ∀ (s : State) (b : Byte), s.fault = false → s.hopen = some .diag →
    exec (.hWriteDiag b) s = .next { s with
      ev := s.ev ++ [.writeByte .diag b], diagOut := s.diagOut ++ [b] }

/-- R135: a payload byte is recorded; in a busy frame nothing is stored; below capacity it is stored at the offset,
which steps; at capacity only `FERR.OVF` is set. -/
def Obligations.BufferedByteIsStoredOrOverflows : Prop :=
  ∀ (s : State) (t : BufType) (b : Byte), s.fault = false → s.hopen = some (.buf t) →
    (s.ferr.busy = true →
      exec (.hWriteBuf t b) s = .next { s with ev := s.ev ++ [.writeByte (.buf t) b] }) ∧
    (s.ferr.busy = false → (s.slot t).idx.toNat < cap s.conf t →
      exec (.hWriteBuf t b) s = .next (({ s with ev := s.ev ++ [.writeByte (.buf t) b] } : State).setSlot t
        { s.slot t with
          buf := (s.slot t).buf.write (s.slot t).idx.toNat b
          idx := BitVec.ofNat 32 ((s.slot t).idx.toNat + 1) })) ∧
    (s.ferr.busy = false → cap s.conf t ≤ (s.slot t).idx.toNat →
      exec (.hWriteBuf t b) s = .next { s with
        ev := s.ev ++ [.writeByte (.buf t) b], ferr := { s.ferr with ovf := true } })

/-- R136, R137 (the errored frame: the spec's own, D11): an end event closes the frame and reports `FERR`; a buffered
frame that is not busy and is clean, or any errored frame where these are delivered, latches `LEN_t` and `ERR_t`, sets
`READY_t` and notifies; every other frame is dropped or discarded with its slot unchanged. -/
def Obligations.EndEventDeliversOrDiscards : Prop :=
  ∀ s : State, s.fault = false →
    (s.hopen = some .diag →
      exec .hEndDiag s = .next { s with hopen := none, ev := s.ev ++ [.endFrame .diag s.ferr] }) ∧
    ∀ t : BufType, s.hopen = some (.buf t) →
      (s.ferr.busy = false → s.ferr.code = 0#3 ∨ s.conf.deliverErrored = true →
        ∃ s', exec (.hEndBuf t) s = .next s' ∧
          s' = ({ s with
            hopen := none, ev := s.ev ++ [.endFrame (.buf t) s.ferr], notify := s.notify ++ [t] } : State).setSlot t
              { s.slot t with len := (s.slot t).idx, err := s.ferr, ready := true }) ∧
      (s.ferr.busy = true ∨ (s.ferr.code ≠ 0#3 ∧ s.conf.deliverErrored = false) →
        exec (.hEndBuf t) s = .next { s with hopen := none, ev := s.ev ++ [.endFrame (.buf t) s.ferr] })

/-- R131 (another type: the spec's own, D21): an event out of sequence, or of another type than the open frame's,
raises PROTOCOL; it is not recorded and has no other effect. -/
def Obligations.EventOutOfSequenceRaisesProtocol : Prop :=
  ∀ s : State, s.fault = false →
    (s.hopen ≠ none →
      exec .hBeginDiag s = .next { s with fault := true, faultCause := some .protocol } ∧
      ∀ t, exec (.hBeginBuf t) s = .next { s with fault := true, faultCause := some .protocol }) ∧
    (∀ (t : FrameType) (b : Byte), s.hopen ≠ some t →
      exec (writeEvent t b) s = .next { s with fault := true, faultCause := some .protocol } ∧
      exec (endEvent t) s = .next { s with fault := true, faultCause := some .protocol })

/-! ## Frames of memory and registers -/

/-- R51, R53: an instruction changes no byte of either buffer but the one cell it stores to. -/
def Obligations.BytesOutsideTheStoredCellStay : Prop :=
  ∀ (i : Instr) (s s' : State), exec i s = .next s' →
    ∀ (t : BufType) (k : Nat), storesAt i s ≠ some (t, k) → (s'.slot t).buf.read k = (s.slot t).buf.read k

/-- R53, R104, R107 to R110, R135: where a frame of the right type is open, the byte delivered is what the stored cell
reads as after the instruction: the byte itself for a literal and an escape violation, `P_END` and `P_ESC` for the
substitutes. -/
def Obligations.StoredCellHoldsTheDeliveredByte : Prop :=
  ∀ (s : State) (t : BufType) (k : Nat) (b : Byte), s.fault = false → s.conf.wf = true →
    (s.hopen = some (.buf t) → writeStoresAt (.buf t) s = some (t, k) →
      (∃ s', exec (.hWriteBuf t b) s = .next s' ∧ (s'.slot t).buf.read k = some b) ∧
      (∃ s', exec (.rxPayLit (.buf t) b) s = .next s' ∧ (s'.slot t).buf.read k = some b) ∧
      (∃ s', exec (.rxEscBad (.buf t) b) s = .next s' ∧ (s'.slot t).buf.read k = some b) ∧
      (∃ s', exec (.rxEscSubend (.buf t)) s = .next s' ∧ (s'.slot t).buf.read k = some s.conf.endByte) ∧
      (∃ s', exec (.rxEscSubesc (.buf t)) s = .next s' ∧ (s'.slot t).buf.read k = some s.conf.escByte)) ∧
    (s.hopen = none → storesAt (.rxIdleOther b) s = some (t, k) →
      ∃ s', exec (.rxIdleOther b) s = .next s' ∧ (s'.slot t).buf.read k = some b)

/-- R133, R135, R137, R140: an event, a decoder action or a drain of one type leaves the other type's buffer, offset,
length, flag and error set as they were, and a diagnostic one leaves both. -/
def Obligations.OtherTypesRegistersStay : Prop :=
  ∀ (s s' : State) (t : FrameType) (u : BufType) (b : Byte) (i : Instr), t ≠ .buf u →
    (i = endEvent t ∨ i = writeEvent t b ∨ i = .rxPayEsc t ∨ i = .rxPayEnd t ∨ i = .rxPayLit t b ∨
      i = .rxEscSubend t ∨ i = .rxEscSubesc t ∨ i = .rxEscBad t b ∨
      (t = .diag ∧ (i = .hBeginDiag ∨ i = .rxIdleDiag)) ∨
      (∃ v, t = .buf v ∧ (i = .hBeginBuf v ∨ i = .consume v)) ∨
      (t = .buf .cfg ∧ i = .rxIdleCfg) ∨ (t = .buf .ip ∧ i = .rxIdleOther b)) →
    exec i s = .next s' → s'.slot u = s.slot u

/-- R187, the spec's own (D18): no operation of a producer, the arbiter or the sink writes the receive path, and what
it does to the transmit path does not depend on the receive path; no operation of the byte source or a consumer writes
the transmit path, and what an `RX` does does not depend on it (the block never feeds `WIRE` back). -/
def Obligations.ThePathsShareNoState : Prop :=
  ∀ (a : Agent) (i : Instr) (s s' : State), i.drivenBy a = true → exec i s = .next s' →
    (a = .byteSource ∨ (∃ t, a = .consumer t) → s'.txSide = s.txSide) ∧
    (a = .byteSource → ∀ v : State, v.conf = s.conf → v.fault = s.fault → v.rxSide = s.rxSide →
      ∃ v', exec i v = .next v' ∧ v'.rxSide = s'.rxSide ∧ v'.txSide = v.txSide ∧ v'.fault = s'.fault) ∧
    ((∃ p, a = .producer p) ∨ a = .arbiter ∨ a = .byteSink →
      s'.rxSide = s.rxSide ∧
      ∀ v : State, v.conf = s.conf → v.fault = s.fault → v.txSide = s.txSide →
        ∃ v', exec i v = .next v' ∧ v'.txSide = s'.txSide ∧ v'.rxSide = v.rxSide ∧ v'.fault = s'.fault)

/-! ## The consumer port -/

/-- R140 (the spec's own, D15): `CONSUME(t)` clears `READY_t` and nothing else; with `READY_t = 0` it is a no-op. -/
def Obligations.ConsumeClearsReady : Prop :=
  ∀ (s : State) (t : BufType), s.fault = false →
    (∃ s', exec (.consume t) s = .next s' ∧ s' = s.setSlot t { s.slot t with ready := false } ∧
      (s'.slot t).ready = false ∧ (s'.slot t).buf = (s.slot t).buf ∧ (s'.slot t).len = (s.slot t).len) ∧
    ((s.slot t).ready = false → exec (.consume t) s = .next s)

/-- R141 (the spec's own, D15): inside the delivered frame `RDBUF` answers the byte of the cell and changes nothing;
where no frame is delivered or the index is beyond its length it raises CONSUMER_CONTRACT. (A cell that was never
written answers the free value, log 8; an index past the capacity, which no run reaches, stops, log 11.) -/
def Obligations.RdbufReadsTheDeliveredFrame : Prop :=
  ∀ (s : State) (t : BufType) (i : Word), s.fault = false →
    ((s.slot t).ready = true → i.toNat < (s.slot t).len.toNat → i.toNat < cap s.conf t →
      (∃ b, exec (.rdbuf t i) s = .next { s with reply := .byte b }) ∧
      ∀ b, (s.slot t).buf.read i.toNat = some b → exec (.rdbuf t i) s = .next { s with reply := .byte b }) ∧
    ((s.slot t).ready = true → i.toNat < (s.slot t).len.toNat → cap s.conf t ≤ i.toNat →
      exec (.rdbuf t i) s = .fault (.noSuchCell t i)) ∧
    ((s.slot t).ready = false ∨ (s.slot t).len.toNat ≤ i.toNat →
      exec (.rdbuf t i) s = .next { s with fault := true, faultCause := some .consumerContract })

/-- R25, R59: in a state of the invariant a consumer that sees `READY_t = 1` reads a written byte at every index below
`LEN_t`: an unwritten cell is never observable. -/
def Obligations.DeliveredBytesAreReadable : Prop :=
  ∀ (s : State) (t : BufType) (i : Word), Inv s → s.fault = false → (s.slot t).ready = true →
    i.toNat < (s.slot t).len.toNat →
    ∃ b, (s.slot t).buf.read i.toNat = some b ∧ exec (.rdbuf t i) s = .next { s with reply := .byte b }

/-- R142, R36: `RDREG` answers `STATUS`, `CFG_LEN`, `IP_LEN`, `CFG_IDX` or `IP_IDX` and changes nothing; any other
number is refused. -/
def Obligations.RdregReadsItsRegister : Prop :=
  ∀ s : State, s.fault = false →
    exec (.rdreg 0) s = .next { s with reply := .word (status s) } ∧
    exec (.rdreg 1) s = .next { s with reply := .word s.cfgSlot.len } ∧
    exec (.rdreg 2) s = .next { s with reply := .word s.ipSlot.len } ∧
    exec (.rdreg 3) s = .next { s with reply := .word s.cfgSlot.idx } ∧
    exec (.rdreg 4) s = .next { s with reply := .word s.ipSlot.idx } ∧
    ∀ n : Byte, 5 ≤ n.toNat → exec (.rdreg n) s = .refused (.illegalOperand (.reservedRegister n))

/-- R37: the fields of `STATUS`, bit by bit, each a copy of the state named; bits 31 to 17 read as zero; at
construction it reads as zero; and no `RDREG` can execute once `FAULT = 1`. -/
def Obligations.StatusFieldsAreCopies : Prop :=
  ∀ s : State,
    (status s).getLsbD 0 = s.cfgSlot.ready ∧
    (status s).getLsbD 1 = s.ipSlot.ready ∧
    (status s).getLsbD 2 = s.txOwner.isSome ∧
    (status s).extractLsb' 3 3 = s.dstate.code ∧
    (status s).extractLsb' 6 2 = frameCode s.hopen ∧
    (status s).getLsbD 8 = s.ferr.esc ∧ (status s).getLsbD 9 = s.ferr.ovf ∧ (status s).getLsbD 10 = s.ferr.busy ∧
    (status s).getLsbD 11 = s.cfgSlot.err.esc ∧ (status s).getLsbD 12 = s.cfgSlot.err.ovf ∧
    (status s).getLsbD 13 = s.cfgSlot.err.busy ∧
    (status s).getLsbD 14 = s.ipSlot.err.esc ∧ (status s).getLsbD 15 = s.ipSlot.err.ovf ∧
    (status s).getLsbD 16 = s.ipSlot.err.busy ∧
    (status s).extractLsb' 17 15 = 0#15 ∧
    (∀ c, status (State.constructed c) = 0x00000000) ∧
    (s.fault = true → ∀ n s', exec (.rdreg n) s ≠ .next s')

/-- R54: `RDBUF` and `RDREG` have no side effect and are idempotent: a read that does not raise changes only the
answer at its port, and the same read again answers the same. -/
def Obligations.ReadsHaveNoSideEffect : Prop :=
  ∀ (s s' : State) (i : Instr), ((∃ t k, i = .rdbuf t k) ∨ (∃ n, i = .rdreg n)) →
    exec i s = .next s' → s'.fault = false →
    s' = { s with reply := s'.reply } ∧ exec i s' = .next s'

/-! ## The transmit path -/

/-- R172: `TX_SUBMIT` records the request of a producer that has none; while a request is outstanding it is held and
changes nothing; a producer the block does not have is refused. No other producer's request changes. (That `exec` of a
held operation answers the same state is the model's own choice, log 4.) -/
def Obligations.SubmitRecordsTheRequest : Prop :=
  ∀ (s : State) (p : Nat) (t : FrameType) (payload : List Byte), s.fault = false →
    (p < s.conf.nprod → Store.read s.txReq p = none →
      ∃ s', exec (.txSubmit p t payload) s = .next s' ∧ s' = { s with txReq := s'.txReq } ∧
        Store.read s'.txReq p = some { frame := t, payload := payload } ∧
        ∀ q, q ≠ p → Store.read s'.txReq q = Store.read s.txReq q) ∧
    (p < s.conf.nprod → Store.read s.txReq p ≠ none → exec (.txSubmit p t payload) s = .next s) ∧
    (s.conf.nprod ≤ p → exec (.txSubmit p t payload) s = .refused (.illegalOperand (.noSuchProducer p)))

/-- R173 (any producer: the spec's own, D18; the same state for a held operation: log 4): `TX_ACQUIRE` grants the free
lock to any producer with a request, whichever others wait, and its frame begins; while the lock is taken or without a
request it is held and changes nothing. -/
def Obligations.AcquireGrantsTheLock : Prop :=
  ∀ (s : State) (p : Nat), s.fault = false → p < s.conf.nprod →
    (∀ r : TxRequest, s.txOwner = none → Store.read s.txReq p = some r →
      exec (.txAcquire p) s = .next { s with
        txOwner := some p
        txType := some r.frame
        txPayload := r.payload
        txPos := 0
        txPhase := if r.frame = .buf .ip then .body else .mark }) ∧
    (s.txOwner ≠ none ∨ Store.read s.txReq p = none → exec (.txAcquire p) s = .next s)

/-- R175, R179: in phase MARK `TX_EMIT` emits the frame's marker, in phase SUB the waiting substitute; both lead to
BODY, whatever is left of the payload. -/
def Obligations.EmitMarkerAndSubstitute : Prop :=
  ∀ (s : State) (t : FrameType) (a : Bool) (c : Byte), s.fault = false →
    (t ≠ .buf .ip →
      exec (.encMark t a c) s = .next { s with
        wire := s.wire ++ [if t = .diag then s.conf.diagMarker else s.conf.cfgMarker], txPhase := .body }) ∧
    exec (.encSub t a c) s = .next { s with wire := s.wire ++ [s.txSubb], txPhase := .body } ∧
    (s.txType = some t →
      (s.txPhase = .mark → t ≠ .buf .ip → exec .txEmit s = .next { s with
        wire := s.wire ++ [if t = .diag then s.conf.diagMarker else s.conf.cfgMarker], txPhase := .body }) ∧
      (s.txPhase = .sub → exec .txEmit s = .next { s with wire := s.wire ++ [s.txSubb], txPhase := .body }))

/-- R176 to R178: in phase BODY with payload left, `TX_EMIT` emits `P_ESC` for a delimiter or an escape-introducer and
keeps its substitute for phase SUB, and emits any other byte unchanged; the position steps. -/
def Obligations.EmitBodyByte : Prop :=
  ∀ (s : State) (t : FrameType) (c : Byte), s.fault = false →
    exec (.encBodyEnd t) s = .next { s with
      wire := s.wire ++ [s.conf.escByte], txSubb := s.conf.escEnd, txPos := s.txPos + 1, txPhase := .sub } ∧
    exec (.encBodyEsc t) s = .next { s with
      wire := s.wire ++ [s.conf.escByte], txSubb := s.conf.escEsc, txPos := s.txPos + 1, txPhase := .sub } ∧
    exec (.encBodyLit t c) s = .next { s with wire := s.wire ++ [c], txPos := s.txPos + 1 } ∧
    (s.conf.wf = true → s.txPhase = .body → s.txType = some t → s.txPayload[s.txPos]? = some c →
      (c = s.conf.endByte → exec .txEmit s = exec (.encBodyEnd t) s) ∧
      (c = s.conf.escByte → exec .txEmit s = exec (.encBodyEsc t) s) ∧
      (s.conf.isLiteral c = true → exec .txEmit s = exec (.encBodyLit t c) s))

/-- R180: in phase BODY with the payload exhausted, `TX_EMIT` emits the closing delimiter, answers the owner and frees
the lock; the other producers' requests, the type, payload, position and substitute keep their values. (Without an
owner, which no run reaches, nobody is answered, log 10.) -/
def Obligations.EmitClosingDelimiter : Prop :=
  ∀ (s : State) (t : FrameType) (c : Byte), s.fault = false →
    (∀ p, s.txOwner = some p →
      ∃ s', exec (.encClose t c) s = .next s' ∧
        s' = { s with
          wire := s.wire ++ [s.conf.endByte], txReq := s'.txReq, txOwner := none, txPhase := .idle
          txDone := s.txDone ++ [p] } ∧
        Store.read s'.txReq p = none ∧ ∀ q, q ≠ p → Store.read s'.txReq q = Store.read s.txReq q) ∧
    (s.txOwner = none →
      exec (.encClose t c) s = .next { s with wire := s.wire ++ [s.conf.endByte], txPhase := .idle }) ∧
    (s.txPhase = .body → s.txType = some t → s.txPos = s.txPayload.length →
      exec .txEmit s = exec (.encClose t 0x00) s)

/-- R182: with no frame in flight `TX_EMIT` is held and changes nothing, so `emit_frame` (R86) has no operation to
issue and is done. (The same state for a held operation is the model's own choice, log 4; the empty `emit_frame`, log
25.) -/
def Obligations.EmitInIdleIsHeld : Prop :=
  ∀ (s : State) (t : Option FrameType) (a : Bool) (c : Byte), s.fault = false →
    exec (.encIdle t a c) s = .next s ∧
    (s.txPhase = .idle → isHeld .txEmit s = true ∧ exec .txEmit s = .next s ∧
      ∀ n, runProgram n [.emitFrame] s = .finished s)

/-- R181 (the spec's own, D21): a sequencer state no rule produces raises BAD_TXSTATE: a non-idle phase without a
type, phase MARK of an IP frame. -/
def Obligations.BadSequencerStateFaults : Prop :=
  ∀ (s : State) (ph : TxPhase) (a : Bool) (c : Byte), s.fault = false →
    exec (.encBadstateNotype ph a c) s = .next { s with fault := true, faultCause := some .badTxstate } ∧
    exec (.encBadstateMarkip a c) s = .next { s with fault := true, faultCause := some .badTxstate } ∧
    ((s.txPhase ≠ .idle ∧ s.txType = none) ∨ (s.txPhase = .mark ∧ s.txType = some (.buf .ip)) →
      exec .txEmit s = .next { s with fault := true, faultCause := some .badTxstate })

/-- R9, R10: an operation that is held changes nothing, while `TX_SUBMIT`, `TX_ACQUIRE` and `TX_EMIT` change the state
wherever they are enabled: each is without effect exactly where R172, R173 and R182 say that it is held. R86: `send`
is held at `tx_acquire` while a producer owns the lock, with its request recorded and none of its `tx_emit` run. (The
same state for a held operation is the model's own choice, log 4.) -/
def Obligations.HeldOperationChangesNothing : Prop :=
  (∀ (s : State) (i : Instr), isHeld i s = true → exec i s = .next s) ∧
  (∀ s : State, s.fault = false →
    (∀ p t payload, p < s.conf.nprod →
      (exec (.txSubmit p t payload) s = .next s ↔ Store.read s.txReq p ≠ none)) ∧
    (∀ p, p < s.conf.nprod →
      (exec (.txAcquire p) s = .next s ↔ s.txOwner ≠ none ∨ Store.read s.txReq p = none)) ∧
    (exec .txEmit s = .next s ↔ s.txPhase = .idle)) ∧
  (∀ (s : State) (p : Nat) (t : FrameType) (payload : List Byte) (n : Nat),
    s.fault = false → p < s.conf.nprod → s.txOwner ≠ none →
    runProgram n [.op (.txAcquire p), .emitFrame] s = .held [.op (.txAcquire p), .emitFrame] s ∧
    (Store.read s.txReq p = none →
      ∃ u, exec (.txSubmit p t payload) s = .next u ∧
        runProgram (n + 1) [.send p t payload] s = .held [.op (.txAcquire p), .emitFrame] u))

/-- R184 (no abort, no interleaving), the spec's own derivation: while a producer owns the lock, only the `TX_EMIT`
that emits the closing delimiter takes the lock or its request away. -/
def Obligations.FrameInFlightRunsToCompletion : Prop :=
  ∀ (s s' : State) (i : Instr) (p : Nat), i.isPort = true → s.txOwner = some p → exec i s = .next s' →
    (s'.txOwner = some p ∧ (Store.read s.txReq p ≠ none → Store.read s'.txReq p = Store.read s.txReq p) ∧
      s'.txType = s.txType ∧ s'.txPayload = s.txPayload) ∨
    (i = .txEmit ∧ s.txPhase = .body ∧ s.txPos = s.txPayload.length ∧ s'.txOwner = none ∧
      Store.read s'.txReq p = none ∧ s'.wire = s.wire ++ [s.conf.endByte] ∧ s'.txDone = s.txDone ++ [p])

/-- R186, the spec's own derivation: the length of a frame on the wire: one marker for DIAG and CFG, one byte for each
payload byte, one more for each that is escaped, and the delimiter; the shortest frames are the delimiter alone (IP)
and a marker with the delimiter. -/
def Obligations.EncodedFrameLength : Prop :=
  ∀ (c : Config) (t : FrameType) (payload : List Byte),
    (wireFrame c t payload).length =
      (if t = .buf .ip then 0 else 1) + payload.length +
        payload.countP (fun b => decide (b = c.endByte) || decide (b = c.escByte)) + 1 ∧
    1 ≤ (wireFrame c t payload).length ∧
    wireFrame c (.buf .ip) [] = [c.endByte] ∧ wireFrame c .diag [] = [c.diagMarker, c.endByte] ∧
    wireFrame c (.buf .cfg) [] = [c.cfgMarker, c.endByte]

/-- R7 (WF3), R176: an encoded frame contains `P_END` only as its closing delimiter. -/
def Obligations.DelimiterOnlyClosesTheFrame : Prop :=
  ∀ (c : Config) (t : FrameType) (payload : List Byte), c.wf = true →
    ∃ body, wireFrame c t payload = body ++ [c.endByte] ∧ c.endByte ∉ body

/-- R183, the spec's own derivation: between `TX_ACQUIRE(p)` and `TX_DONE(p)` the sequencer emits exactly the bytes of
`Encode(t, P)`, in order, in exactly as many `TX_EMIT` steps; the receive path is untouched. R86: from that
`TX_ACQUIRE`, `emit_frame` is exactly so many steps; `send` on the free lock puts the whole frame on the wire. -/
def Obligations.FrameIsEmittedWhole : Prop :=
  (∀ (s : State) (p : Nat) (t : FrameType) (payload : List Byte),
    s.fault = false → p < s.conf.nprod → s.txOwner = none →
    Store.read s.txReq p = some { frame := t, payload := payload } →
    (∀ k, k ≤ (wireFrame s.conf t payload).length →
      ∃ s', execAll (.txAcquire p :: List.replicate k .txEmit) s = .next s' ∧ s'.fault = false ∧
        s'.wire = s.wire ++ (wireFrame s.conf t payload).take k ∧ s'.rxSide = s.rxSide ∧
        (k < (wireFrame s.conf t payload).length → s'.txOwner = some p ∧ s'.txDone = s.txDone) ∧
        (k = (wireFrame s.conf t payload).length →
          s'.txOwner = none ∧ s'.txPhase = .idle ∧ s'.txDone = s.txDone ++ [p] ∧
          Store.read s'.txReq p = none ∧ ∀ q, q ≠ p → Store.read s'.txReq q = Store.read s.txReq q)) ∧
    ∃ a, exec (.txAcquire p) s = .next a ∧
      ∀ k, k ≤ (wireFrame s.conf t payload).length →
        ∃ s', execAll (List.replicate k .txEmit) a = .next s' ∧
          runProgram k [.emitFrame] a =
            if k = (wireFrame s.conf t payload).length then .finished s' else .running [.emitFrame] s') ∧
  (∀ (s : State) (p : Nat) (t : FrameType) (payload : List Byte),
    s.fault = false → p < s.conf.nprod → s.txOwner = none → Store.read s.txReq p = none →
    ∃ s', runProgram ((wireFrame s.conf t payload).length + 2) [.send p t payload] s = .finished s' ∧
      s'.fault = false ∧ s'.wire = s.wire ++ wireFrame s.conf t payload ∧ s'.txDone = s.txDone ++ [p] ∧
      s'.txOwner = none ∧ s'.txPhase = .idle ∧ s'.rxSide = s.rxSide)

/-- R184, the spec's own derivation: `WIRE` is a concatenation of complete frames with at most one incomplete frame at
its end; it holds at construction, and every operation keeps it, adding the frame in flight when it completes. -/
def Obligations.WireIsWholeFrames : Prop :=
  (∀ c : Config, WireHolds [] (State.constructed c)) ∧
  ∀ (s s' : State) (i : Instr) (sent : List TxRequest), i.isPort = true → TxInv s → WireHolds sent s →
    exec i s = .next s' →
    WireHolds sent s' ∨
      ∃ t, s.txType = some t ∧ WireHolds (sent ++ [{ frame := t, payload := s.txPayload }]) s'

/-! ## The round trip -/

/-- R185, the spec's own derivation: received from IDLE, the bytes of `Encode(t, P)` reconstruct exactly one frame of
type `t` with payload `P` and no error, under the law's conditions; nothing of the transmit path changes. -/
def Obligations.RoundTrip : Prop :=
  ∀ (s : State) (t : FrameType) (payload : List Byte),
    s.conf.wf = true → s.fault = false → s.dstate = .idle → s.hopen = none →
    (∀ u, t = .buf u → payload.length ≤ cap s.conf u ∧ (s.slot u).ready = false) →
    (t = .buf .ip → ∃ b rest, payload = b :: rest ∧ s.conf.isIdleOther b = true ∧ b ≠ s.conf.escByte) →
    ∃ s', execAll (rxs (wireFrame s.conf t payload)) s = .next s' ∧
      s'.fault = false ∧ s'.dstate = .idle ∧ s'.hopen = none ∧ s'.txSide = s.txSide ∧
      s'.ev = s.ev ++ .beginFrame t :: payload.map (.writeByte t) ++ [.endFrame t .empty] ∧
      (t = .diag → s'.diagOut = s.diagOut ++ payload ∧ s'.cfgSlot = s.cfgSlot ∧ s'.ipSlot = s.ipSlot ∧
        s'.notify = s.notify) ∧
      (∀ u, t = .buf u → (s'.slot u).ready = true ∧ (s'.slot u).len.toNat = payload.length ∧
        (s'.slot u).err = .empty ∧ (∀ k, k < payload.length → (s'.slot u).buf.read k = payload[k]?) ∧
        s'.notify = s.notify ++ [u] ∧ s'.diagOut = s.diagOut)

/-- R185, the spec's own derivation: the same law when other agents' operations interleave with the bytes, up to the
frame's last byte. -/
def Obligations.RoundTripUnderInterleaving : Prop :=
  ∀ (s s' : State) (t : FrameType) (payload : List Byte) (ops : List Instr),
    s.conf.wf = true → s.dstate = .idle → s.hopen = none →
    (∀ u, t = .buf u → payload.length ≤ cap s.conf u ∧ (s.slot u).ready = false) →
    (t = .buf .ip → ∃ b rest, payload = b :: rest ∧ s.conf.isIdleOther b = true ∧ b ≠ s.conf.escByte) →
    (∀ i ∈ ops, i.isPort = true) → rxBytes ops = wireFrame s.conf t payload →
    ops.getLast? = some (.rx s.conf.endByte) →
    execAll ops s = .next s' → s'.fault = false →
      s'.dstate = .idle ∧ s'.hopen = none ∧
      s'.ev = s.ev ++ .beginFrame t :: payload.map (.writeByte t) ++ [.endFrame t .empty] ∧
      (t = .diag → s'.diagOut = s.diagOut ++ payload) ∧
      (∀ u, t = .buf u → (s'.slot u).ready = true ∧ (s'.slot u).len.toNat = payload.length ∧
        (∀ k, k < payload.length → (s'.slot u).buf.read k = payload[k]?) ∧ s'.notify = s.notify ++ [u])

/-- R237, R185: an IP payload that is empty or begins with a reserved byte is not received as sent: an empty one
yields no frame, one that begins with END or ESC yields a different IP payload (ESC and the substitute in place of the
byte, then the other bytes as sent), and one that begins with a marker is, byte for byte, the marker's frame. -/
def Obligations.IpFirstByteCollision : Prop :=
  ∀ c : Config, c.wf = true →
    (∀ s : State, s.conf = c → s.fault = false → s.dstate = .idle →
      execAll (rxs (wireFrame c (.buf .ip) [])) s = .next s) ∧
    (∀ (s : State) (b : Byte) (rest : List Byte), s.conf = c → s.fault = false → s.dstate = .idle →
      s.hopen = none → b = c.endByte ∨ b = c.escByte →
      ∃ s' e, execAll (rxs (wireFrame c (.buf .ip) (b :: rest))) s = .next s' ∧
        s'.fault = false ∧ s'.dstate = .idle ∧ s'.hopen = none ∧
        s'.ev = s.ev ++ .beginFrame (.buf .ip) ::
          ([c.escByte, if b = c.endByte then c.escEnd else c.escEsc] ++ rest).map (.writeByte (.buf .ip)) ++
            [.endFrame (.buf .ip) e]) ∧
    (∀ rest, wireFrame c (.buf .ip) (c.diagMarker :: rest) = wireFrame c .diag rest) ∧
    (∀ rest, wireFrame c (.buf .ip) (c.cfgMarker :: rest) = wireFrame c (.buf .cfg) rest)

/-! ## Invariants -/

/-- R230, R231: the invariant holds at construction, under every well-formed configuration. -/
def Obligations.InvariantAtConstruction : Prop :=
  ∀ c : Config, c.wf = true → Inv (State.constructed c)

/-- R21, R22, R24 to R28, R31, R59, R111, R114, R138, R181, R207: every step from a state of the invariant leads to
one. -/
def Obligations.StepKeepsTheInvariant : Prop :=
  ∀ s s' : State, Inv s → step s = .next s' → Inv s'

/-- R114, the spec's own derivation: the event stream is whole frames followed by at most one open frame, which exists
exactly when `DSTATE` is not IDLE; every port operation keeps this, with the decoder's registers legal, and raises no
PROTOCOL; so it holds in every run from construction, and the contract check never fires in one. -/
def Obligations.EventStreamIsSequenced : Prop :=
  (∀ (s s' : State) (i : Instr), i.isPort = true → RxInv s → EvShape s.ev s.dstate.frame →
    exec i s = .next s' →
    RxInv s' ∧ EvShape s'.ev s'.dstate.frame ∧ (s'.dstate.frame = none ↔ s'.dstate = .idle) ∧
      (s'.faultCause = some .protocol → s.faultCause = some .protocol)) ∧
  (∀ (c : Config) (ops : List Instr) (s' : State), c.wf = true → (∀ i ∈ ops, i.isPort = true) →
    execAll ops (State.constructed c) = .next s' →
    EvShape s'.ev s'.dstate.frame ∧ (s'.dstate.frame = none ↔ s'.dstate = .idle) ∧
      s'.faultCause ≠ some .protocol)

/-- R138, the spec's own derivation: while a frame of a buffered type is stored, its offset is the smaller of the
number of its bytes and the capacity, `FERR.OVF` says that there were more, and the cells below the offset hold its
first bytes; every port operation keeps this. -/
def Obligations.StoredContentIsKept : Prop :=
  ∀ (s s' : State) (i : Instr) (t : BufType), s.conf.wf = true → i.isPort = true → StoredContent t s →
    exec i s = .next s' → StoredContent t s'

/-- R144, the spec's own derivation: the delimiter that delivers a frame of `w` bytes leaves `LEN_t = min(w, P_t_CAP)`
and the frame's first bytes in the buffer; with an empty error set `LEN_t = w`. -/
def Obligations.DeliveredFrameIsThePayload : Prop :=
  ∀ (s : State) (t : BufType), s.conf.wf = true → s.fault = false → s.dstate = .pay (.buf t) →
    s.hopen = some (.buf t) → s.ferr.busy = false → s.ferr = .empty ∨ s.conf.deliverErrored = true →
    StoredContent t s →
    ∃ s', exec (.rx s.conf.endByte) s = .next s' ∧ (s'.slot t).ready = true ∧ (s'.slot t).err = s.ferr ∧
      (s'.slot t).len.toNat = min (frameBytes s.ev).length (cap s.conf t) ∧
      (∀ k, k < (s'.slot t).len.toNat → (s'.slot t).buf.read k = (frameBytes s.ev)[k]?) ∧
      (s.ferr = .empty → (s'.slot t).len.toNat = (frameBytes s.ev).length)

/-- R59, R234: while `READY_t = 1` no step changes the buffer, offset, length or error set of type `t`; only
`CONSUME(t)` clears the flag. -/
def Obligations.UndrainedFrameStaysIntact : Prop :=
  ∀ (s s' : State) (i : Instr) (t : BufType), Inv s → i.isPort = true → (s.slot t).ready = true →
    exec i s = .next s' →
    s'.slot t = s.slot t ∨ (i = .consume t ∧ s'.slot t = { s.slot t with ready := false })

/-- R184, R114: every port operation keeps, together, the invariants of the two paths, the whole frames on the wire
(adding the frame in flight when it completes) and the form of the event stream. R241: so a run that ends correctly
and quiescent leaves whole frames only, on the wire and in the event stream. -/
def Obligations.QuiescentEndHoldsWholeFrames : Prop :=
  (∀ (s s' : State) (i : Instr) (sent : List TxRequest), i.isPort = true →
    TxInv s → RxInv s → WireHolds sent s → EvShape s.ev s.dstate.frame → exec i s = .next s' →
    TxInv s' ∧ RxInv s' ∧ EvShape s'.ev s'.dstate.frame ∧
      (WireHolds sent s' ∨
        ∃ t, s.txType = some t ∧ WireHolds (sent ++ [{ frame := t, payload := s.txPayload }]) s')) ∧
  (∀ (s : State) (sent : List TxRequest), TxInv s → RxInv s → WireHolds sent s → EvShape s.ev s.dstate.frame →
    Quiescent s →
    (s.wire = sent.flatMap fun r => wireFrame s.conf r.frame r.payload) ∧
      EvShape s.ev none ∧ s.hopen = none ∧ s.txOwner = none) ∧
  (∀ (c : Config) (ops : List Instr) (s' : State), c.wf = true → EndsCorrectly c ops s' → Quiescent s' →
    (∃ sent : List TxRequest, s'.wire = sent.flatMap fun r => wireFrame c r.frame r.payload) ∧
    EvShape s'.ev none ∧ s'.hopen = none ∧ s'.txOwner = none)
end

