-- ==== Sys2Proof/Laws/Codes.lean ====
section
/-! SUPPORT. Codes and word layouts: a code read back gives what it stands for, and the fields of a word laid out are the
fields it was laid out from. -/

namespace Sys2Proof

/-! ## Fields of a concatenation -/

theorem extract_low {n m : Nat} (a : BitVec n) (b : BitVec m) : (a ++ b).extractLsb' 0 m = b := by
  ext i hi
  simp [BitVec.getLsbD_append, hi]

theorem extract_above {n m : Nat} (a : BitVec n) (b : BitVec m) (i k : Nat) :
    (a ++ b).extractLsb' (m + i) k = a.extractLsb' i k := by
  ext j hj
  simp only [BitVec.getElem_extractLsb', BitVec.getLsbD_append]
  rw [if_neg (by omega), show m + i + j - m = i + j by omega]

theorem extract_all {n : Nat} (a : BitVec n) : a.extractLsb' 0 n = a := by
  ext i hi
  simp

theorem extract_high {n m : Nat} (a : BitVec n) (b : BitVec m) : (a ++ b).extractLsb' m n = a := by
  have := extract_above a b 0 n
  simpa [extract_all] using this

/-! ## Codes -/

@[simp] theorem frameOfCode_frameCode (t : Option FrameType) : frameOfCode (frameCode t) = t := by
  rcases t with _ | (_ | t)
  · rfl
  · rfl
  · cases t <;> rfl

@[simp] theorem frameOfCode_code (t : FrameType) : frameOfCode t.code = some t := frameOfCode_frameCode (some t)

@[simp] theorem frameCode_frameOfCode (c : BitVec 2) : frameCode (frameOfCode c) = c := by revert c; decide

@[simp] theorem operandFrame_code (t : FrameType) : operandFrame t.code = .ok t := by simp [operandFrame]

@[simp] theorem operandBuf_code (t : BufType) : operandBuf (FrameType.buf t).code = .ok t := by cases t <;> rfl

@[simp] theorem DState.ofCode_code (d : DState) : DState.ofCode d.code = d := by
  rcases d with _ | _ | (_ | t) | (_ | t)
  all_goals first | rfl | (cases t <;> rfl)

@[simp] theorem DState.code_ofCode (c : BitVec 3) : (DState.ofCode c).code = c := by revert c; decide

@[simp] theorem TxPhase.ofCode_code (p : TxPhase) : TxPhase.ofCode p.code = p := by cases p <;> rfl

@[simp] theorem TxPhase.code_ofCode (c : BitVec 2) : (TxPhase.ofCode c).code = c := by revert c; decide

@[simp] theorem decWord_state (d : DState) (b : Byte) : (decWord d b).extractLsb' 8 3 = d.code := extract_high d.code b

@[simp] theorem decWord_byte (d : DState) (b : Byte) : (decWord d b).extractLsb' 0 8 = b := extract_low d.code b

/-- A DEC word is laid out from its own fields. -/
theorem decWord_fields (w : BitVec 11) : decWord (DState.ofCode (w.extractLsb' 8 3)) (w.extractLsb' 0 8) = w := by
  rw [decWord, DState.code_ofCode]
  ext i hi
  refine (BitVec.getElem_append (x := w.extractLsb' 8 3) (y := w.extractLsb' 0 8) hi).trans ?_
  split <;> rename_i h
  · simp [BitVec.getLsbD_eq_getElem hi]
  · rw [BitVec.getElem_extractLsb', show 8 + (i - 8) = i by omega, BitVec.getLsbD_eq_getElem hi]

@[simp] theorem encWord_phase (ph : TxPhase) (t : Option FrameType) (a : Bool) (c : Byte) :
    (encWord ph t a c).extractLsb' 11 2 = ph.code := by
  have h₁ := extract_above (ph.code ++ frameCode t ++ BitVec.ofBool a) c 3 2
  have h₂ := extract_above (ph.code ++ frameCode t) (BitVec.ofBool a) 2 2
  have h₃ := extract_high ph.code (frameCode t)
  exact h₁.trans (h₂.trans h₃)

@[simp] theorem encWord_type (ph : TxPhase) (t : Option FrameType) (a : Bool) (c : Byte) :
    (encWord ph t a c).extractLsb' 9 2 = frameCode t := by
  have h₁ := extract_above (ph.code ++ frameCode t ++ BitVec.ofBool a) c 1 2
  have h₂ := extract_above (ph.code ++ frameCode t) (BitVec.ofBool a) 0 2
  have h₃ := extract_low ph.code (frameCode t)
  exact h₁.trans (h₂.trans h₃)

@[simp] theorem encWord_exhausted (ph : TxPhase) (t : Option FrameType) (a : Bool) (c : Byte) :
    (encWord ph t a c).getLsbD 8 = a := by
  have h₁ := BitVec.getLsbD_append (x := ph.code ++ frameCode t ++ BitVec.ofBool a) (y := c) (i := 8)
  have h₂ := BitVec.getLsbD_append (x := ph.code ++ frameCode t) (y := BitVec.ofBool a) (i := 0)
  exact h₁.trans (h₂.trans (by cases a <;> rfl))

@[simp] theorem encWord_exhausted_getElem (ph : TxPhase) (t : Option FrameType) (a : Bool) (c : Byte) :
    (encWord ph t a c)[8] = a :=
  encWord_exhausted ph t a c

@[simp] theorem encWord_byte (ph : TxPhase) (t : Option FrameType) (a : Bool) (c : Byte) :
    (encWord ph t a c).extractLsb' 0 8 = c := extract_low (ph.code ++ frameCode t ++ BitVec.ofBool a) c

/-- An ENC word is laid out from its own fields. -/
theorem encWord_fields (w : BitVec 13) :
    encWord (TxPhase.ofCode (w.extractLsb' 11 2)) (frameOfCode (w.extractLsb' 9 2)) (w.getLsbD 8)
      (w.extractLsb' 0 8) = w := by
  simp only [encWord, TxPhase.code_ofCode, frameCode_frameOfCode]
  ext i hi
  simp only [BitVec.getElem_append, BitVec.getElem_extractLsb']
  split <;> rename_i h
  · simp [BitVec.getLsbD_eq_getElem hi]
  · split <;> rename_i h'
    · have : i = 8 := by omega
      subst this
      simp [BitVec.getLsbD_eq_getElem]
    · split <;> rename_i h''
      · rw [show 9 + (i - 8 - 1) = i by omega, BitVec.getLsbD_eq_getElem hi]
      · rw [show 11 + (i - 8 - 1 - 2) = i by omega, BitVec.getLsbD_eq_getElem hi]

@[simp] theorem evWord_kind (k : BitVec 2) (t : Option FrameType) (d : BitVec 9) :
    (evWord k t d).extractLsb' 11 2 = k := by
  have h₁ := extract_above (k ++ frameCode t) d 2 2
  exact h₁.trans (extract_high k (frameCode t))

@[simp] theorem evWord_type (k : BitVec 2) (t : Option FrameType) (d : BitVec 9) :
    (evWord k t d).extractLsb' 9 2 = frameCode t := by
  have h₁ := extract_above (k ++ frameCode t) d 0 2
  exact h₁.trans (extract_low k (frameCode t))

@[simp] theorem evWord_byte (k : BitVec 2) (t : Option FrameType) (b : Byte) :
    (evWord k t (0#1 ++ b)).extractLsb' 0 8 = b := by
  ext i hi
  simp only [evWord, BitVec.getElem_extractLsb', BitVec.getLsbD_append, Nat.zero_add]
  rw [if_pos (by omega), if_pos (by omega), BitVec.getLsbD_eq_getElem hi]

end Sys2Proof
end

