-- ==== Sys2Proof/Laws/Config.lean ====
section
/-! SUPPORT. What a well-formed configuration gives (00_scope.md R6, R7), one lemma for each fact a proof uses, and the byte
classes as inequalities. -/

namespace Sys2Proof.Config

theorem wf_parts {c : Config} (h : c.wf = true) :
    c.wf1 = true ∧ c.wf2 = true ∧ c.wf3 = true ∧ c.inRange = true := by
  simpa [wf, and_assoc] using h

theorem wf_end_esc {c : Config} (h : c.wf = true) : c.endByte ≠ c.escByte := by
  have := (wf_parts h).1
  simp [wf1] at this
  tauto

theorem wf_end_diag {c : Config} (h : c.wf = true) : c.endByte ≠ c.diagMarker := by
  have := (wf_parts h).1
  simp [wf1] at this
  tauto

theorem wf_end_cfg {c : Config} (h : c.wf = true) : c.endByte ≠ c.cfgMarker := by
  have := (wf_parts h).1
  simp [wf1] at this
  tauto

theorem wf_esc_diag {c : Config} (h : c.wf = true) : c.escByte ≠ c.diagMarker := by
  have := (wf_parts h).1
  simp [wf1] at this
  tauto

theorem wf_esc_cfg {c : Config} (h : c.wf = true) : c.escByte ≠ c.cfgMarker := by
  have := (wf_parts h).1
  simp [wf1] at this
  tauto

theorem wf_diag_cfg {c : Config} (h : c.wf = true) : c.diagMarker ≠ c.cfgMarker := by
  have := (wf_parts h).1
  simp [wf1] at this
  tauto

theorem wf_subst {c : Config} (h : c.wf = true) : c.escEnd ≠ c.escEsc := by
  have := (wf_parts h).2.1
  simpa [wf2] using this

theorem wf_escEnd {c : Config} (h : c.wf = true) : c.escEnd ≠ c.endByte ∧ c.escEnd ≠ c.escByte := by
  have := (wf_parts h).2.2.1
  simp [wf3] at this
  tauto

theorem wf_escEsc {c : Config} (h : c.wf = true) : c.escEsc ≠ c.endByte ∧ c.escEsc ≠ c.escByte := by
  have := (wf_parts h).2.2.1
  simp [wf3] at this
  tauto

theorem wf_cfgCap {c : Config} (h : c.wf = true) : 1 ≤ c.cfgCap ∧ c.cfgCap < 2 ^ 32 := by
  have := (wf_parts h).2.2.2
  simp [inRange] at this
  omega

theorem wf_ipCap {c : Config} (h : c.wf = true) : 1 ≤ c.ipCap ∧ c.ipCap < 2 ^ 32 := by
  have := (wf_parts h).2.2.2
  simp [inRange] at this
  omega

theorem isIdleOther_iff {c : Config} {b : Byte} :
    c.isIdleOther b = true ↔ b ≠ c.endByte ∧ b ≠ c.diagMarker ∧ b ≠ c.cfgMarker := by
  simp [isIdleOther, and_assoc]

theorem isLiteral_iff {c : Config} {b : Byte} : c.isLiteral b = true ↔ b ≠ c.escByte ∧ b ≠ c.endByte := by
  simp [isLiteral]

theorem isEscapeViolation_iff {c : Config} {b : Byte} :
    c.isEscapeViolation b = true ↔ b ≠ c.escEnd ∧ b ≠ c.escEsc := by
  simp [isEscapeViolation]

end Sys2Proof.Config
end

