-- ==== Sys2Proof/Laws/Exec.lean ====
section
/-! SUPPORT. What an enabled operation answers, that `RX` and `TX_EMIT` perform the meaning of the row their word selects,
and everything a step can do. -/

namespace Sys2Proof.Machine

theorem whenEnabled_running {s : State} (h : s.fault = false) (k : State → State) :
    whenEnabled s k = .next (k s) := by simp [whenEnabled, h]

theorem whenEnabled_halted {s : State} (h : s.fault = true) (k : State → State) :
    whenEnabled s k = .fault (.halted s.faultCause) := by simp [whenEnabled, h]

theorem whenEnabled_eq_next {s s' : State} {k : State → State} :
    whenEnabled s k = .next s' ↔ s.fault = false ∧ s' = k s := by
  cases h : s.fault <;> simp [whenEnabled, h, eq_comm]

theorem whenProducer_eq_next {p : Nat} {s s' : State} {k : State → State} :
    whenProducer p s k = .next s' ↔ p < s.conf.nprod ∧ s.fault = false ∧ s' = k s := by
  by_cases h : p < s.conf.nprod <;> simp [whenProducer, h, whenEnabled_eq_next]

/-- A decoder action runs as the instruction it is. -/
theorem exec_dec (a : DecAction) (s : State) : exec a.toInstr s = runDec a s := by cases a <;> rfl

/-- An encoder action runs as the instruction it is. -/
theorem exec_enc (a : EncAction) (s : State) : exec a.toInstr s = runEnc a s := by cases a <;> rfl

/-- `RX` performs the row its decode word selects (R100). -/
theorem exec_rx (b : Byte) (s : State) : exec (.rx b) s = exec (decodeDec s.conf (rxWord s b)).toInstr s :=
  (exec_dec _ s).symm

/-- `TX_EMIT` performs the row its encode word selects (R174). -/
theorem exec_txEmit (s : State) : exec .txEmit s = exec (decodeEnc s.conf (txWord s)).toInstr s :=
  (exec_enc _ s).symm

/-- The row an `RX` selects, by the decoder state and the byte (R79). -/
theorem decodeDec_rxWord (s : State) (b : Byte) :
    decodeDec s.conf (rxWord s b) =
      match s.dstate with
      | .unused => .badstate b
      | .idle =>
        if b = s.conf.endByte then .idleEnd else if b = s.conf.diagMarker then .idleDiag
        else if b = s.conf.cfgMarker then .idleCfg else .idleOther b
      | .pay t =>
        if b = s.conf.escByte then .payEsc t else if b = s.conf.endByte then .payEnd t else .payLit t b
      | .esc t =>
        if b = s.conf.escEnd then .escSubend t else if b = s.conf.escEsc then .escSubesc t else .escBad t b := by
  simp only [decodeDec, rxWord, decWord_state, decWord_byte, DState.ofCode_code]
  all_goals cases s.dstate <;> rfl

/-- The row a `TX_EMIT` selects, by the sequencer's registers (R80). -/
theorem decodeEnc_txWord (s : State) :
    decodeEnc s.conf (txWord s) =
      match s.txPhase, s.txType with
      | .idle, t => .idle t (txExhausted s) (txByte s)
      | ph, none => .badstateNotype ph (txExhausted s) (txByte s)
      | .mark, some t =>
        if t = .buf .ip then .badstateMarkip (txExhausted s) (txByte s) else .mark t (txExhausted s) (txByte s)
      | .sub, some t => .sub t (txExhausted s) (txByte s)
      | .body, some t =>
        if txExhausted s then .close t (txByte s)
        else if txByte s = s.conf.endByte then .bodyEnd t
        else if txByte s = s.conf.escByte then .bodyEsc t
        else .bodyLit t (txByte s) := by
  simp only [decodeEnc, txWord, encWord_phase, encWord_type, encWord_exhausted, encWord_byte,
    TxPhase.ofCode_code, frameOfCode_frameCode]
  all_goals cases s.txPhase <;> cases s.txType <;> rfl

/-! ## Held operations -/

/-- A held operation has no effect (R10). -/
theorem exec_held {i : Instr} {s : State} (h : isHeld i s = true) : exec i s = .next s := by
  cases hf : s.fault
  case true => simp [isHeld, hf] at h
  have hw (k : State → State) : whenEnabled s k = .next (k s) := whenEnabled_running hf k
  cases i with
  | encIdle t a c => exact hw fun s => s
  | txEmit =>
    have hp : s.txPhase = .idle := by simpa [isHeld, hf] using h
    have hd : decodeEnc s.conf (txWord s) = .idle s.txType (txExhausted s) (txByte s) := by
      rw [decodeEnc_txWord, hp]
    rw [exec_txEmit, hd]
    exact hw fun s => s
  | txSubmit p t payload =>
    obtain ⟨hp, hr⟩ : p < s.conf.nprod ∧ (Store.read s.txReq p).isSome = true := by simpa [isHeld, hf] using h
    obtain ⟨r, hr⟩ := Option.isSome_iff_exists.mp hr
    simp [exec, execTxSubmit, whenProducer, hp, hw, submit, hr]
  | txAcquire p =>
    obtain ⟨hp, hr⟩ : p < s.conf.nprod ∧ (s.txOwner.isSome = true ∨ Store.read s.txReq p = none) := by
      simpa [isHeld, hf] using h
    cases ho : s.txOwner with
    | some q => simp [exec, execTxAcquire, whenProducer, hp, hw, acquire, ho]
    | none =>
      have hr : Store.read s.txReq p = none := by simpa [ho] using hr
      simp [exec, execTxAcquire, whenProducer, hp, hw, acquire, ho, hr]
  | _ => simp [isHeld, hf] at h

/-! ## A step -/

/-- The chosen word is the first that does not wait, and the others keep their order. -/
theorem selectEnabled_eq_some {s : State} {ws others : List Presented} {w : Presented} :
    selectEnabled s ws = some (w, others) ↔
      ∃ before after, ws = before ++ w :: after ∧ others = before ++ after ∧
        (∀ v ∈ before, waits s v = true) ∧ waits s w = false := by
  constructor
  · intro h
    induction ws generalizing others with
    | nil => simp [selectEnabled] at h
    | cons v rest ih =>
      cases hv : waits s v
      · obtain ⟨rfl, rfl⟩ : v = w ∧ rest = others := by simpa [selectEnabled, hv] using h
        exact ⟨[], rest, rfl, rfl, by simp, hv⟩
      · cases hr : selectEnabled s rest with
        | none => simp [selectEnabled, hv, hr] at h
        | some p =>
          obtain ⟨u, os⟩ := p
          obtain ⟨rfl, rfl⟩ : u = w ∧ v :: os = others := by simpa [selectEnabled, hv, hr] using h
          obtain ⟨before, after, rfl, rfl, hb, hw⟩ := ih hr
          exact ⟨v :: before, after, rfl, rfl, by simpa [hv] using hb, hw⟩
  · rintro ⟨before, after, rfl, rfl, hb, hw⟩
    induction before with
    | nil => simp [selectEnabled, hw]
    | cons v rest ih =>
      simp [selectEnabled, hb v (by simp), ih fun u hu => hb u (by simp [hu])]

/-- No word is chosen exactly where every word waits. -/
theorem selectEnabled_eq_none {s : State} {ws : List Presented} :
    selectEnabled s ws = none ↔ ∀ w ∈ ws, waits s w = true := by
  induction ws with
  | nil => simp [selectEnabled]
  | cons v rest ih =>
    cases hv : waits s v
    · simp [selectEnabled, hv]
    · cases hr : selectEnabled s rest with
      | none => simpa [selectEnabled, hv, hr] using ih.mp hr
      | some p =>
        have : ¬ ∀ w ∈ rest, waits s w = true := fun hall => by simp [ih.mpr hall] at hr
        simpa [selectEnabled, hv, hr] using this

/-- Everything a step can do: wait, since every presented word does; raise PROTOCOL for a word that is no event; or run
the instruction that the oldest word that does not wait spells. -/
theorem step_cases {s s' : State} (h : step s = .next s') :
    s.conf.wf = true ∧ s.fault = false ∧
      (((∀ w ∈ s.pending, waits s w = true) ∧ s' = s) ∨
       ∃ w before after, s.pending = before ++ w :: after ∧ (∀ v ∈ before, waits s v = true) ∧
        ((∃ ew e, w = .event ew ∧ decodeEv ew = .error e ∧
            s' = ({ s with pending := before ++ after, reply := .none } : State).raiseFault .protocol) ∨
         (∃ i, decode s.conf w.code = .ok i ∧ isHeld i s = false ∧
            exec i { s with pending := before ++ after, reply := .none } = .next s'))) := by
  unfold step fetch at h
  by_cases hc : s.conf.wf = true
  case neg => simp [hc] at h
  by_cases hf : s.fault = true
  case pos => simp [hc, hf] at h
  refine ⟨hc, by simpa using hf, ?_⟩
  rw [if_pos hc, if_neg hf] at h
  cases hsel : selectEnabled s s.pending with
  | none =>
    simp only [hsel] at h
    exact .inl ⟨selectEnabled_eq_none.mp hsel, by simpa using h.symm⟩
  | some p =>
    obtain ⟨w, others⟩ := p
    simp only [hsel] at h
    obtain ⟨before, after, hp, rfl, hb, hw⟩ := selectEnabled_eq_some.mp hsel
    refine .inr ⟨w, before, after, hp, hb, ?_⟩
    cases w with
    | port pw =>
      cases hd : decodePort s.conf pw with
      | ok i =>
        simp only [hd] at h
        exact .inr ⟨i, hd, by simpa [waits, Presented.code, decode, hd] using hw, h⟩
      | error e => simp [hd] at h
    | event ew =>
      cases hd : decodeEv ew with
      | ok a =>
        simp only [hd] at h
        have hdc : decode s.conf (Presented.event ew).code = .ok a.toInstr := by simp [Presented.code, decode, hd]
        exact .inr ⟨a.toInstr, hdc, by simpa [waits, hdc] using hw, h⟩
      | error e =>
        simp only [hd] at h
        exact .inl ⟨ew, e, rfl, hd, by simpa using h.symm⟩

theorem execAll_append (xs ys : List Instr) (s : State) :
    execAll (xs ++ ys) s =
      match execAll xs s with
      | .next s' => execAll ys s'
      | .fault r => .fault r
      | .refused r => .refused r := by
  induction xs generalizing s with
  | nil => rfl
  | cons i rest ih =>
    simp only [List.cons_append, execAll]
    cases exec i s with
    | next u => exact ih u
    | fault r => rfl
    | refused r => rfl

end Sys2Proof.Machine
end

