-- ==== Sys2Proof/Laws/State.lean ====
section
/-! SUPPORT. One lemma per field and update of the state: what each named operation of Machine/Ops.lean and
Machine/Flags.lean leaves in each field. -/

namespace Sys2Proof.Machine.State

/-! ## `emitEv` -/

@[simp] theorem emitEv_conf (s : State) (e : Event) : (s.emitEv e).conf = s.conf := rfl
@[simp] theorem emitEv_dstate (s : State) (e : Event) : (s.emitEv e).dstate = s.dstate := rfl
@[simp] theorem emitEv_hopen (s : State) (e : Event) : (s.emitEv e).hopen = s.hopen := rfl
@[simp] theorem emitEv_ferr (s : State) (e : Event) : (s.emitEv e).ferr = s.ferr := rfl
@[simp] theorem emitEv_cfgSlot (s : State) (e : Event) : (s.emitEv e).cfgSlot = s.cfgSlot := rfl
@[simp] theorem emitEv_ipSlot (s : State) (e : Event) : (s.emitEv e).ipSlot = s.ipSlot := rfl
@[simp] theorem emitEv_fault (s : State) (e : Event) : (s.emitEv e).fault = s.fault := rfl
@[simp] theorem emitEv_faultCause (s : State) (e : Event) : (s.emitEv e).faultCause = s.faultCause := rfl
@[simp] theorem emitEv_txReq (s : State) (e : Event) : (s.emitEv e).txReq = s.txReq := rfl
@[simp] theorem emitEv_txOwner (s : State) (e : Event) : (s.emitEv e).txOwner = s.txOwner := rfl
@[simp] theorem emitEv_txPhase (s : State) (e : Event) : (s.emitEv e).txPhase = s.txPhase := rfl
@[simp] theorem emitEv_txType (s : State) (e : Event) : (s.emitEv e).txType = s.txType := rfl
@[simp] theorem emitEv_txPayload (s : State) (e : Event) : (s.emitEv e).txPayload = s.txPayload := rfl
@[simp] theorem emitEv_txPos (s : State) (e : Event) : (s.emitEv e).txPos = s.txPos := rfl
@[simp] theorem emitEv_txSubb (s : State) (e : Event) : (s.emitEv e).txSubb = s.txSubb := rfl
@[simp] theorem emitEv_ev (s : State) (e : Event) : (s.emitEv e).ev = s.ev ++ [e] := rfl
@[simp] theorem emitEv_diagOut (s : State) (e : Event) : (s.emitEv e).diagOut = s.diagOut := rfl
@[simp] theorem emitEv_wire (s : State) (e : Event) : (s.emitEv e).wire = s.wire := rfl
@[simp] theorem emitEv_notify (s : State) (e : Event) : (s.emitEv e).notify = s.notify := rfl
@[simp] theorem emitEv_txDone (s : State) (e : Event) : (s.emitEv e).txDone = s.txDone := rfl
@[simp] theorem emitEv_pending (s : State) (e : Event) : (s.emitEv e).pending = s.pending := rfl
@[simp] theorem emitEv_reply (s : State) (e : Event) : (s.emitEv e).reply = s.reply := rfl
@[simp] theorem emitEv_slot (s : State) (e : Event) (u : BufType) : (s.emitEv e).slot u = s.slot u := by cases u <;> rfl

/-! ## `emitDiag` -/

@[simp] theorem emitDiag_conf (s : State) (b : Byte) : (s.emitDiag b).conf = s.conf := rfl
@[simp] theorem emitDiag_dstate (s : State) (b : Byte) : (s.emitDiag b).dstate = s.dstate := rfl
@[simp] theorem emitDiag_hopen (s : State) (b : Byte) : (s.emitDiag b).hopen = s.hopen := rfl
@[simp] theorem emitDiag_ferr (s : State) (b : Byte) : (s.emitDiag b).ferr = s.ferr := rfl
@[simp] theorem emitDiag_cfgSlot (s : State) (b : Byte) : (s.emitDiag b).cfgSlot = s.cfgSlot := rfl
@[simp] theorem emitDiag_ipSlot (s : State) (b : Byte) : (s.emitDiag b).ipSlot = s.ipSlot := rfl
@[simp] theorem emitDiag_fault (s : State) (b : Byte) : (s.emitDiag b).fault = s.fault := rfl
@[simp] theorem emitDiag_faultCause (s : State) (b : Byte) : (s.emitDiag b).faultCause = s.faultCause := rfl
@[simp] theorem emitDiag_txReq (s : State) (b : Byte) : (s.emitDiag b).txReq = s.txReq := rfl
@[simp] theorem emitDiag_txOwner (s : State) (b : Byte) : (s.emitDiag b).txOwner = s.txOwner := rfl
@[simp] theorem emitDiag_txPhase (s : State) (b : Byte) : (s.emitDiag b).txPhase = s.txPhase := rfl
@[simp] theorem emitDiag_txType (s : State) (b : Byte) : (s.emitDiag b).txType = s.txType := rfl
@[simp] theorem emitDiag_txPayload (s : State) (b : Byte) : (s.emitDiag b).txPayload = s.txPayload := rfl
@[simp] theorem emitDiag_txPos (s : State) (b : Byte) : (s.emitDiag b).txPos = s.txPos := rfl
@[simp] theorem emitDiag_txSubb (s : State) (b : Byte) : (s.emitDiag b).txSubb = s.txSubb := rfl
@[simp] theorem emitDiag_ev (s : State) (b : Byte) : (s.emitDiag b).ev = s.ev := rfl
@[simp] theorem emitDiag_diagOut (s : State) (b : Byte) : (s.emitDiag b).diagOut = s.diagOut ++ [b] := rfl
@[simp] theorem emitDiag_wire (s : State) (b : Byte) : (s.emitDiag b).wire = s.wire := rfl
@[simp] theorem emitDiag_notify (s : State) (b : Byte) : (s.emitDiag b).notify = s.notify := rfl
@[simp] theorem emitDiag_txDone (s : State) (b : Byte) : (s.emitDiag b).txDone = s.txDone := rfl
@[simp] theorem emitDiag_pending (s : State) (b : Byte) : (s.emitDiag b).pending = s.pending := rfl
@[simp] theorem emitDiag_reply (s : State) (b : Byte) : (s.emitDiag b).reply = s.reply := rfl
@[simp] theorem emitDiag_slot (s : State) (b : Byte) (u : BufType) : (s.emitDiag b).slot u = s.slot u := by cases u <;> rfl

/-! ## `emitWire` -/

@[simp] theorem emitWire_conf (s : State) (b : Byte) : (s.emitWire b).conf = s.conf := rfl
@[simp] theorem emitWire_dstate (s : State) (b : Byte) : (s.emitWire b).dstate = s.dstate := rfl
@[simp] theorem emitWire_hopen (s : State) (b : Byte) : (s.emitWire b).hopen = s.hopen := rfl
@[simp] theorem emitWire_ferr (s : State) (b : Byte) : (s.emitWire b).ferr = s.ferr := rfl
@[simp] theorem emitWire_cfgSlot (s : State) (b : Byte) : (s.emitWire b).cfgSlot = s.cfgSlot := rfl
@[simp] theorem emitWire_ipSlot (s : State) (b : Byte) : (s.emitWire b).ipSlot = s.ipSlot := rfl
@[simp] theorem emitWire_fault (s : State) (b : Byte) : (s.emitWire b).fault = s.fault := rfl
@[simp] theorem emitWire_faultCause (s : State) (b : Byte) : (s.emitWire b).faultCause = s.faultCause := rfl
@[simp] theorem emitWire_txReq (s : State) (b : Byte) : (s.emitWire b).txReq = s.txReq := rfl
@[simp] theorem emitWire_txOwner (s : State) (b : Byte) : (s.emitWire b).txOwner = s.txOwner := rfl
@[simp] theorem emitWire_txPhase (s : State) (b : Byte) : (s.emitWire b).txPhase = s.txPhase := rfl
@[simp] theorem emitWire_txType (s : State) (b : Byte) : (s.emitWire b).txType = s.txType := rfl
@[simp] theorem emitWire_txPayload (s : State) (b : Byte) : (s.emitWire b).txPayload = s.txPayload := rfl
@[simp] theorem emitWire_txPos (s : State) (b : Byte) : (s.emitWire b).txPos = s.txPos := rfl
@[simp] theorem emitWire_txSubb (s : State) (b : Byte) : (s.emitWire b).txSubb = s.txSubb := rfl
@[simp] theorem emitWire_ev (s : State) (b : Byte) : (s.emitWire b).ev = s.ev := rfl
@[simp] theorem emitWire_diagOut (s : State) (b : Byte) : (s.emitWire b).diagOut = s.diagOut := rfl
@[simp] theorem emitWire_wire (s : State) (b : Byte) : (s.emitWire b).wire = s.wire ++ [b] := rfl
@[simp] theorem emitWire_notify (s : State) (b : Byte) : (s.emitWire b).notify = s.notify := rfl
@[simp] theorem emitWire_txDone (s : State) (b : Byte) : (s.emitWire b).txDone = s.txDone := rfl
@[simp] theorem emitWire_pending (s : State) (b : Byte) : (s.emitWire b).pending = s.pending := rfl
@[simp] theorem emitWire_reply (s : State) (b : Byte) : (s.emitWire b).reply = s.reply := rfl
@[simp] theorem emitWire_slot (s : State) (b : Byte) (u : BufType) : (s.emitWire b).slot u = s.slot u := by cases u <;> rfl

/-! ## `emitNotify` -/

@[simp] theorem emitNotify_conf (s : State) (t : BufType) : (s.emitNotify t).conf = s.conf := rfl
@[simp] theorem emitNotify_dstate (s : State) (t : BufType) : (s.emitNotify t).dstate = s.dstate := rfl
@[simp] theorem emitNotify_hopen (s : State) (t : BufType) : (s.emitNotify t).hopen = s.hopen := rfl
@[simp] theorem emitNotify_ferr (s : State) (t : BufType) : (s.emitNotify t).ferr = s.ferr := rfl
@[simp] theorem emitNotify_cfgSlot (s : State) (t : BufType) : (s.emitNotify t).cfgSlot = s.cfgSlot := rfl
@[simp] theorem emitNotify_ipSlot (s : State) (t : BufType) : (s.emitNotify t).ipSlot = s.ipSlot := rfl
@[simp] theorem emitNotify_fault (s : State) (t : BufType) : (s.emitNotify t).fault = s.fault := rfl
@[simp] theorem emitNotify_faultCause (s : State) (t : BufType) : (s.emitNotify t).faultCause = s.faultCause := rfl
@[simp] theorem emitNotify_txReq (s : State) (t : BufType) : (s.emitNotify t).txReq = s.txReq := rfl
@[simp] theorem emitNotify_txOwner (s : State) (t : BufType) : (s.emitNotify t).txOwner = s.txOwner := rfl
@[simp] theorem emitNotify_txPhase (s : State) (t : BufType) : (s.emitNotify t).txPhase = s.txPhase := rfl
@[simp] theorem emitNotify_txType (s : State) (t : BufType) : (s.emitNotify t).txType = s.txType := rfl
@[simp] theorem emitNotify_txPayload (s : State) (t : BufType) : (s.emitNotify t).txPayload = s.txPayload := rfl
@[simp] theorem emitNotify_txPos (s : State) (t : BufType) : (s.emitNotify t).txPos = s.txPos := rfl
@[simp] theorem emitNotify_txSubb (s : State) (t : BufType) : (s.emitNotify t).txSubb = s.txSubb := rfl
@[simp] theorem emitNotify_ev (s : State) (t : BufType) : (s.emitNotify t).ev = s.ev := rfl
@[simp] theorem emitNotify_diagOut (s : State) (t : BufType) : (s.emitNotify t).diagOut = s.diagOut := rfl
@[simp] theorem emitNotify_wire (s : State) (t : BufType) : (s.emitNotify t).wire = s.wire := rfl
@[simp] theorem emitNotify_notify (s : State) (t : BufType) : (s.emitNotify t).notify = s.notify ++ [t] := rfl
@[simp] theorem emitNotify_txDone (s : State) (t : BufType) : (s.emitNotify t).txDone = s.txDone := rfl
@[simp] theorem emitNotify_pending (s : State) (t : BufType) : (s.emitNotify t).pending = s.pending := rfl
@[simp] theorem emitNotify_reply (s : State) (t : BufType) : (s.emitNotify t).reply = s.reply := rfl
@[simp] theorem emitNotify_slot (s : State) (t : BufType) (u : BufType) : (s.emitNotify t).slot u = s.slot u := by cases u <;> rfl

/-! ## `emitTxDone` -/

@[simp] theorem emitTxDone_conf (s : State) (p : Nat) : (s.emitTxDone p).conf = s.conf := rfl
@[simp] theorem emitTxDone_dstate (s : State) (p : Nat) : (s.emitTxDone p).dstate = s.dstate := rfl
@[simp] theorem emitTxDone_hopen (s : State) (p : Nat) : (s.emitTxDone p).hopen = s.hopen := rfl
@[simp] theorem emitTxDone_ferr (s : State) (p : Nat) : (s.emitTxDone p).ferr = s.ferr := rfl
@[simp] theorem emitTxDone_cfgSlot (s : State) (p : Nat) : (s.emitTxDone p).cfgSlot = s.cfgSlot := rfl
@[simp] theorem emitTxDone_ipSlot (s : State) (p : Nat) : (s.emitTxDone p).ipSlot = s.ipSlot := rfl
@[simp] theorem emitTxDone_fault (s : State) (p : Nat) : (s.emitTxDone p).fault = s.fault := rfl
@[simp] theorem emitTxDone_faultCause (s : State) (p : Nat) : (s.emitTxDone p).faultCause = s.faultCause := rfl
@[simp] theorem emitTxDone_txReq (s : State) (p : Nat) : (s.emitTxDone p).txReq = s.txReq := rfl
@[simp] theorem emitTxDone_txOwner (s : State) (p : Nat) : (s.emitTxDone p).txOwner = s.txOwner := rfl
@[simp] theorem emitTxDone_txPhase (s : State) (p : Nat) : (s.emitTxDone p).txPhase = s.txPhase := rfl
@[simp] theorem emitTxDone_txType (s : State) (p : Nat) : (s.emitTxDone p).txType = s.txType := rfl
@[simp] theorem emitTxDone_txPayload (s : State) (p : Nat) : (s.emitTxDone p).txPayload = s.txPayload := rfl
@[simp] theorem emitTxDone_txPos (s : State) (p : Nat) : (s.emitTxDone p).txPos = s.txPos := rfl
@[simp] theorem emitTxDone_txSubb (s : State) (p : Nat) : (s.emitTxDone p).txSubb = s.txSubb := rfl
@[simp] theorem emitTxDone_ev (s : State) (p : Nat) : (s.emitTxDone p).ev = s.ev := rfl
@[simp] theorem emitTxDone_diagOut (s : State) (p : Nat) : (s.emitTxDone p).diagOut = s.diagOut := rfl
@[simp] theorem emitTxDone_wire (s : State) (p : Nat) : (s.emitTxDone p).wire = s.wire := rfl
@[simp] theorem emitTxDone_notify (s : State) (p : Nat) : (s.emitTxDone p).notify = s.notify := rfl
@[simp] theorem emitTxDone_txDone (s : State) (p : Nat) : (s.emitTxDone p).txDone = s.txDone ++ [p] := rfl
@[simp] theorem emitTxDone_pending (s : State) (p : Nat) : (s.emitTxDone p).pending = s.pending := rfl
@[simp] theorem emitTxDone_reply (s : State) (p : Nat) : (s.emitTxDone p).reply = s.reply := rfl
@[simp] theorem emitTxDone_slot (s : State) (p : Nat) (u : BufType) : (s.emitTxDone p).slot u = s.slot u := by cases u <;> rfl

/-! ## `raiseFault` -/

@[simp] theorem raiseFault_conf (s : State) (c : FaultCause) : (s.raiseFault c).conf = s.conf := rfl
@[simp] theorem raiseFault_dstate (s : State) (c : FaultCause) : (s.raiseFault c).dstate = s.dstate := rfl
@[simp] theorem raiseFault_hopen (s : State) (c : FaultCause) : (s.raiseFault c).hopen = s.hopen := rfl
@[simp] theorem raiseFault_ferr (s : State) (c : FaultCause) : (s.raiseFault c).ferr = s.ferr := rfl
@[simp] theorem raiseFault_cfgSlot (s : State) (c : FaultCause) : (s.raiseFault c).cfgSlot = s.cfgSlot := rfl
@[simp] theorem raiseFault_ipSlot (s : State) (c : FaultCause) : (s.raiseFault c).ipSlot = s.ipSlot := rfl
@[simp] theorem raiseFault_fault (s : State) (c : FaultCause) : (s.raiseFault c).fault = true := rfl
@[simp] theorem raiseFault_faultCause (s : State) (c : FaultCause) : (s.raiseFault c).faultCause = some c := rfl
@[simp] theorem raiseFault_txReq (s : State) (c : FaultCause) : (s.raiseFault c).txReq = s.txReq := rfl
@[simp] theorem raiseFault_txOwner (s : State) (c : FaultCause) : (s.raiseFault c).txOwner = s.txOwner := rfl
@[simp] theorem raiseFault_txPhase (s : State) (c : FaultCause) : (s.raiseFault c).txPhase = s.txPhase := rfl
@[simp] theorem raiseFault_txType (s : State) (c : FaultCause) : (s.raiseFault c).txType = s.txType := rfl
@[simp] theorem raiseFault_txPayload (s : State) (c : FaultCause) : (s.raiseFault c).txPayload = s.txPayload := rfl
@[simp] theorem raiseFault_txPos (s : State) (c : FaultCause) : (s.raiseFault c).txPos = s.txPos := rfl
@[simp] theorem raiseFault_txSubb (s : State) (c : FaultCause) : (s.raiseFault c).txSubb = s.txSubb := rfl
@[simp] theorem raiseFault_ev (s : State) (c : FaultCause) : (s.raiseFault c).ev = s.ev := rfl
@[simp] theorem raiseFault_diagOut (s : State) (c : FaultCause) : (s.raiseFault c).diagOut = s.diagOut := rfl
@[simp] theorem raiseFault_wire (s : State) (c : FaultCause) : (s.raiseFault c).wire = s.wire := rfl
@[simp] theorem raiseFault_notify (s : State) (c : FaultCause) : (s.raiseFault c).notify = s.notify := rfl
@[simp] theorem raiseFault_txDone (s : State) (c : FaultCause) : (s.raiseFault c).txDone = s.txDone := rfl
@[simp] theorem raiseFault_pending (s : State) (c : FaultCause) : (s.raiseFault c).pending = s.pending := rfl
@[simp] theorem raiseFault_reply (s : State) (c : FaultCause) : (s.raiseFault c).reply = s.reply := rfl
@[simp] theorem raiseFault_slot (s : State) (c : FaultCause) (u : BufType) : (s.raiseFault c).slot u = s.slot u := by cases u <;> rfl

/-! ## `answer` -/

@[simp] theorem answer_conf (s : State) (v : Reply) : (s.answer v).conf = s.conf := rfl
@[simp] theorem answer_dstate (s : State) (v : Reply) : (s.answer v).dstate = s.dstate := rfl
@[simp] theorem answer_hopen (s : State) (v : Reply) : (s.answer v).hopen = s.hopen := rfl
@[simp] theorem answer_ferr (s : State) (v : Reply) : (s.answer v).ferr = s.ferr := rfl
@[simp] theorem answer_cfgSlot (s : State) (v : Reply) : (s.answer v).cfgSlot = s.cfgSlot := rfl
@[simp] theorem answer_ipSlot (s : State) (v : Reply) : (s.answer v).ipSlot = s.ipSlot := rfl
@[simp] theorem answer_fault (s : State) (v : Reply) : (s.answer v).fault = s.fault := rfl
@[simp] theorem answer_faultCause (s : State) (v : Reply) : (s.answer v).faultCause = s.faultCause := rfl
@[simp] theorem answer_txReq (s : State) (v : Reply) : (s.answer v).txReq = s.txReq := rfl
@[simp] theorem answer_txOwner (s : State) (v : Reply) : (s.answer v).txOwner = s.txOwner := rfl
@[simp] theorem answer_txPhase (s : State) (v : Reply) : (s.answer v).txPhase = s.txPhase := rfl
@[simp] theorem answer_txType (s : State) (v : Reply) : (s.answer v).txType = s.txType := rfl
@[simp] theorem answer_txPayload (s : State) (v : Reply) : (s.answer v).txPayload = s.txPayload := rfl
@[simp] theorem answer_txPos (s : State) (v : Reply) : (s.answer v).txPos = s.txPos := rfl
@[simp] theorem answer_txSubb (s : State) (v : Reply) : (s.answer v).txSubb = s.txSubb := rfl
@[simp] theorem answer_ev (s : State) (v : Reply) : (s.answer v).ev = s.ev := rfl
@[simp] theorem answer_diagOut (s : State) (v : Reply) : (s.answer v).diagOut = s.diagOut := rfl
@[simp] theorem answer_wire (s : State) (v : Reply) : (s.answer v).wire = s.wire := rfl
@[simp] theorem answer_notify (s : State) (v : Reply) : (s.answer v).notify = s.notify := rfl
@[simp] theorem answer_txDone (s : State) (v : Reply) : (s.answer v).txDone = s.txDone := rfl
@[simp] theorem answer_pending (s : State) (v : Reply) : (s.answer v).pending = s.pending := rfl
@[simp] theorem answer_reply (s : State) (v : Reply) : (s.answer v).reply = v := rfl
@[simp] theorem answer_slot (s : State) (v : Reply) (u : BufType) : (s.answer v).slot u = s.slot u := by cases u <;> rfl

/-! ## `setEscError` -/

@[simp] theorem setEscError_conf (s : State) : (s.setEscError).conf = s.conf := rfl
@[simp] theorem setEscError_dstate (s : State) : (s.setEscError).dstate = s.dstate := rfl
@[simp] theorem setEscError_hopen (s : State) : (s.setEscError).hopen = s.hopen := rfl
@[simp] theorem setEscError_ferr (s : State) : (s.setEscError).ferr = { s.ferr with esc := true } := rfl
@[simp] theorem setEscError_cfgSlot (s : State) : (s.setEscError).cfgSlot = s.cfgSlot := rfl
@[simp] theorem setEscError_ipSlot (s : State) : (s.setEscError).ipSlot = s.ipSlot := rfl
@[simp] theorem setEscError_fault (s : State) : (s.setEscError).fault = s.fault := rfl
@[simp] theorem setEscError_faultCause (s : State) : (s.setEscError).faultCause = s.faultCause := rfl
@[simp] theorem setEscError_txReq (s : State) : (s.setEscError).txReq = s.txReq := rfl
@[simp] theorem setEscError_txOwner (s : State) : (s.setEscError).txOwner = s.txOwner := rfl
@[simp] theorem setEscError_txPhase (s : State) : (s.setEscError).txPhase = s.txPhase := rfl
@[simp] theorem setEscError_txType (s : State) : (s.setEscError).txType = s.txType := rfl
@[simp] theorem setEscError_txPayload (s : State) : (s.setEscError).txPayload = s.txPayload := rfl
@[simp] theorem setEscError_txPos (s : State) : (s.setEscError).txPos = s.txPos := rfl
@[simp] theorem setEscError_txSubb (s : State) : (s.setEscError).txSubb = s.txSubb := rfl
@[simp] theorem setEscError_ev (s : State) : (s.setEscError).ev = s.ev := rfl
@[simp] theorem setEscError_diagOut (s : State) : (s.setEscError).diagOut = s.diagOut := rfl
@[simp] theorem setEscError_wire (s : State) : (s.setEscError).wire = s.wire := rfl
@[simp] theorem setEscError_notify (s : State) : (s.setEscError).notify = s.notify := rfl
@[simp] theorem setEscError_txDone (s : State) : (s.setEscError).txDone = s.txDone := rfl
@[simp] theorem setEscError_pending (s : State) : (s.setEscError).pending = s.pending := rfl
@[simp] theorem setEscError_reply (s : State) : (s.setEscError).reply = s.reply := rfl
@[simp] theorem setEscError_slot (s : State) (u : BufType) : (s.setEscError).slot u = s.slot u := by cases u <;> rfl

/-! ## `setOverflow` -/

@[simp] theorem setOverflow_conf (s : State) : (s.setOverflow).conf = s.conf := rfl
@[simp] theorem setOverflow_dstate (s : State) : (s.setOverflow).dstate = s.dstate := rfl
@[simp] theorem setOverflow_hopen (s : State) : (s.setOverflow).hopen = s.hopen := rfl
@[simp] theorem setOverflow_ferr (s : State) : (s.setOverflow).ferr = { s.ferr with ovf := true } := rfl
@[simp] theorem setOverflow_cfgSlot (s : State) : (s.setOverflow).cfgSlot = s.cfgSlot := rfl
@[simp] theorem setOverflow_ipSlot (s : State) : (s.setOverflow).ipSlot = s.ipSlot := rfl
@[simp] theorem setOverflow_fault (s : State) : (s.setOverflow).fault = s.fault := rfl
@[simp] theorem setOverflow_faultCause (s : State) : (s.setOverflow).faultCause = s.faultCause := rfl
@[simp] theorem setOverflow_txReq (s : State) : (s.setOverflow).txReq = s.txReq := rfl
@[simp] theorem setOverflow_txOwner (s : State) : (s.setOverflow).txOwner = s.txOwner := rfl
@[simp] theorem setOverflow_txPhase (s : State) : (s.setOverflow).txPhase = s.txPhase := rfl
@[simp] theorem setOverflow_txType (s : State) : (s.setOverflow).txType = s.txType := rfl
@[simp] theorem setOverflow_txPayload (s : State) : (s.setOverflow).txPayload = s.txPayload := rfl
@[simp] theorem setOverflow_txPos (s : State) : (s.setOverflow).txPos = s.txPos := rfl
@[simp] theorem setOverflow_txSubb (s : State) : (s.setOverflow).txSubb = s.txSubb := rfl
@[simp] theorem setOverflow_ev (s : State) : (s.setOverflow).ev = s.ev := rfl
@[simp] theorem setOverflow_diagOut (s : State) : (s.setOverflow).diagOut = s.diagOut := rfl
@[simp] theorem setOverflow_wire (s : State) : (s.setOverflow).wire = s.wire := rfl
@[simp] theorem setOverflow_notify (s : State) : (s.setOverflow).notify = s.notify := rfl
@[simp] theorem setOverflow_txDone (s : State) : (s.setOverflow).txDone = s.txDone := rfl
@[simp] theorem setOverflow_pending (s : State) : (s.setOverflow).pending = s.pending := rfl
@[simp] theorem setOverflow_reply (s : State) : (s.setOverflow).reply = s.reply := rfl
@[simp] theorem setOverflow_slot (s : State) (u : BufType) : (s.setOverflow).slot u = s.slot u := by cases u <;> rfl

/-! ## `setSlot` -/

@[simp] theorem setSlot_conf (s : State) (t : BufType) (v : Slot) : (s.setSlot t v).conf = s.conf := by cases t <;> rfl
@[simp] theorem setSlot_dstate (s : State) (t : BufType) (v : Slot) : (s.setSlot t v).dstate = s.dstate := by cases t <;> rfl
@[simp] theorem setSlot_hopen (s : State) (t : BufType) (v : Slot) : (s.setSlot t v).hopen = s.hopen := by cases t <;> rfl
@[simp] theorem setSlot_ferr (s : State) (t : BufType) (v : Slot) : (s.setSlot t v).ferr = s.ferr := by cases t <;> rfl
@[simp] theorem setSlot_fault (s : State) (t : BufType) (v : Slot) : (s.setSlot t v).fault = s.fault := by cases t <;> rfl
@[simp] theorem setSlot_faultCause (s : State) (t : BufType) (v : Slot) : (s.setSlot t v).faultCause = s.faultCause := by cases t <;> rfl
@[simp] theorem setSlot_txReq (s : State) (t : BufType) (v : Slot) : (s.setSlot t v).txReq = s.txReq := by cases t <;> rfl
@[simp] theorem setSlot_txOwner (s : State) (t : BufType) (v : Slot) : (s.setSlot t v).txOwner = s.txOwner := by cases t <;> rfl
@[simp] theorem setSlot_txPhase (s : State) (t : BufType) (v : Slot) : (s.setSlot t v).txPhase = s.txPhase := by cases t <;> rfl
@[simp] theorem setSlot_txType (s : State) (t : BufType) (v : Slot) : (s.setSlot t v).txType = s.txType := by cases t <;> rfl
@[simp] theorem setSlot_txPayload (s : State) (t : BufType) (v : Slot) : (s.setSlot t v).txPayload = s.txPayload := by cases t <;> rfl
@[simp] theorem setSlot_txPos (s : State) (t : BufType) (v : Slot) : (s.setSlot t v).txPos = s.txPos := by cases t <;> rfl
@[simp] theorem setSlot_txSubb (s : State) (t : BufType) (v : Slot) : (s.setSlot t v).txSubb = s.txSubb := by cases t <;> rfl
@[simp] theorem setSlot_ev (s : State) (t : BufType) (v : Slot) : (s.setSlot t v).ev = s.ev := by cases t <;> rfl
@[simp] theorem setSlot_diagOut (s : State) (t : BufType) (v : Slot) : (s.setSlot t v).diagOut = s.diagOut := by cases t <;> rfl
@[simp] theorem setSlot_wire (s : State) (t : BufType) (v : Slot) : (s.setSlot t v).wire = s.wire := by cases t <;> rfl
@[simp] theorem setSlot_notify (s : State) (t : BufType) (v : Slot) : (s.setSlot t v).notify = s.notify := by cases t <;> rfl
@[simp] theorem setSlot_txDone (s : State) (t : BufType) (v : Slot) : (s.setSlot t v).txDone = s.txDone := by cases t <;> rfl
@[simp] theorem setSlot_pending (s : State) (t : BufType) (v : Slot) : (s.setSlot t v).pending = s.pending := by cases t <;> rfl
@[simp] theorem setSlot_reply (s : State) (t : BufType) (v : Slot) : (s.setSlot t v).reply = s.reply := by cases t <;> rfl
@[simp] theorem setSlot_slot (s : State) (t : BufType) (v : Slot) : (s.setSlot t v).slot t = v := by cases t <;> rfl

theorem setSlot_slot_other (s : State) {t u : BufType} (v : Slot) (h : u ≠ t) :
    (s.setSlot t v).slot u = s.slot u := by
  cases t <;> cases u <;> first | rfl | exact absurd rfl h

@[simp] theorem setSlot_self (s : State) (t : BufType) : s.setSlot t (s.slot t) = s := by cases t <;> rfl

/-! ## `appendByte` -/

@[simp] theorem appendByte_conf (s : State) (t : BufType) (b : Byte) : (s.appendByte t b).conf = s.conf := by simp [appendByte]
@[simp] theorem appendByte_dstate (s : State) (t : BufType) (b : Byte) : (s.appendByte t b).dstate = s.dstate := by simp [appendByte]
@[simp] theorem appendByte_hopen (s : State) (t : BufType) (b : Byte) : (s.appendByte t b).hopen = s.hopen := by simp [appendByte]
@[simp] theorem appendByte_ferr (s : State) (t : BufType) (b : Byte) : (s.appendByte t b).ferr = s.ferr := by simp [appendByte]
@[simp] theorem appendByte_fault (s : State) (t : BufType) (b : Byte) : (s.appendByte t b).fault = s.fault := by simp [appendByte]
@[simp] theorem appendByte_faultCause (s : State) (t : BufType) (b : Byte) : (s.appendByte t b).faultCause = s.faultCause := by simp [appendByte]
@[simp] theorem appendByte_txReq (s : State) (t : BufType) (b : Byte) : (s.appendByte t b).txReq = s.txReq := by simp [appendByte]
@[simp] theorem appendByte_txOwner (s : State) (t : BufType) (b : Byte) : (s.appendByte t b).txOwner = s.txOwner := by simp [appendByte]
@[simp] theorem appendByte_txPhase (s : State) (t : BufType) (b : Byte) : (s.appendByte t b).txPhase = s.txPhase := by simp [appendByte]
@[simp] theorem appendByte_txType (s : State) (t : BufType) (b : Byte) : (s.appendByte t b).txType = s.txType := by simp [appendByte]
@[simp] theorem appendByte_txPayload (s : State) (t : BufType) (b : Byte) : (s.appendByte t b).txPayload = s.txPayload := by simp [appendByte]
@[simp] theorem appendByte_txPos (s : State) (t : BufType) (b : Byte) : (s.appendByte t b).txPos = s.txPos := by simp [appendByte]
@[simp] theorem appendByte_txSubb (s : State) (t : BufType) (b : Byte) : (s.appendByte t b).txSubb = s.txSubb := by simp [appendByte]
@[simp] theorem appendByte_ev (s : State) (t : BufType) (b : Byte) : (s.appendByte t b).ev = s.ev := by simp [appendByte]
@[simp] theorem appendByte_diagOut (s : State) (t : BufType) (b : Byte) : (s.appendByte t b).diagOut = s.diagOut := by simp [appendByte]
@[simp] theorem appendByte_wire (s : State) (t : BufType) (b : Byte) : (s.appendByte t b).wire = s.wire := by simp [appendByte]
@[simp] theorem appendByte_notify (s : State) (t : BufType) (b : Byte) : (s.appendByte t b).notify = s.notify := by simp [appendByte]
@[simp] theorem appendByte_txDone (s : State) (t : BufType) (b : Byte) : (s.appendByte t b).txDone = s.txDone := by simp [appendByte]
@[simp] theorem appendByte_pending (s : State) (t : BufType) (b : Byte) : (s.appendByte t b).pending = s.pending := by simp [appendByte]
@[simp] theorem appendByte_reply (s : State) (t : BufType) (b : Byte) : (s.appendByte t b).reply = s.reply := by simp [appendByte]
@[simp] theorem appendByte_slot (s : State) (t : BufType) (b : Byte) :
    (s.appendByte t b).slot t =
      { s.slot t with buf := (s.slot t).buf.write (s.slot t).idx.toNat b, idx := (s.slot t).idx + 1 } := by
  simp [appendByte]

theorem appendByte_slot_other (s : State) {t u : BufType} (b : Byte) (h : u ≠ t) :
    (s.appendByte t b).slot u = s.slot u := setSlot_slot_other s _ h

/-! ## Plain record updates, seen through `slot` -/

@[simp] theorem slot_dstate (s : State) (d : DState) (u : BufType) :
    ({ s with dstate := d } : State).slot u = s.slot u := by cases u <;> rfl

@[simp] theorem slot_hopen (s : State) (h : Option FrameType) (u : BufType) :
    ({ s with hopen := h } : State).slot u = s.slot u := by cases u <;> rfl

@[simp] theorem slot_hopen_ferr (s : State) (h : Option FrameType) (e : ErrorSet) (u : BufType) :
    ({ s with hopen := h, ferr := e } : State).slot u = s.slot u := by cases u <;> rfl

/-- A state after a raise that is not skipped. -/
@[simp] theorem andThen_raised (s : State) (c : FaultCause) (k : State → State) :
    (s.raiseFault c).andThen k = s.raiseFault c := rfl

theorem andThen_running {s : State} (h : s.fault = false) (k : State → State) : s.andThen k = k s := by
  simp [andThen, h]

theorem andThen_stopped {s : State} (h : s.fault = true) (k : State → State) : s.andThen k = s := by
  simp [andThen, h]

end Sys2Proof.Machine.State
end

