-- ==== Sys2Proof/Laws/Handler.lean ====
section
/-! SUPPORT. What the handler events do, said once for each: the effect where the contract check passes, and the fault
where it does not; and the fields no event writes. -/

namespace Sys2Proof.Machine

theorem checkOpen_pass {want : Option FrameType} {s : State} (h : s.hopen = want) (k : State → State) :
    checkOpen want s k = k s := by simp [checkOpen, h]

theorem checkOpen_fail {want : Option FrameType} {s : State} (h : s.hopen ≠ want) (k : State → State) :
    checkOpen want s k = s.raiseFault .protocol := by simp [checkOpen, h]

/-- Whatever `k` keeps, the checked event keeps, if taking a fault keeps it. -/
theorem checkOpen_keeps {β : Type} (f : State → β) {want : Option FrameType} {s : State} {k : State → State}
    (hr : f (s.raiseFault .protocol) = f s) (hk : f (k s) = f s) : f (checkOpen want s k) = f s := by
  unfold checkOpen
  split
  · exact hk
  · exact hr

/-- Whatever `s` and the rest keep, the sequence keeps. -/
theorem State.andThen_keeps {β : Type} (f : State → β) {s t : State} {k : State → State}
    (hs : f s = f t) (hk : f (k s) = f t) : f (s.andThen k) = f t := by
  unfold State.andThen
  split
  · exact hs
  · exact hk

theorem beginDiag_of_closed {s : State} (h : s.hopen = none) :
    beginDiag s = { s with hopen := some .diag, ferr := .empty, ev := s.ev ++ [.beginFrame .diag] } :=
  checkOpen_pass h _

theorem beginBuf_of_busy {t : BufType} {s : State} (h : s.hopen = none) (hr : (s.slot t).ready = true) :
    beginBuf t s =
      { s with hopen := some (.buf t), ferr := .onlyBusy, ev := s.ev ++ [.beginFrame (.buf t)] } := by
  rw [beginBuf, checkOpen_pass h]
  simp [ferrAtBegin, hr, State.emitEv]

theorem beginBuf_of_free {t : BufType} {s : State} (h : s.hopen = none) (hr : (s.slot t).ready = false) :
    beginBuf t s =
      ({ s with hopen := some (.buf t), ferr := .empty, ev := s.ev ++ [.beginFrame (.buf t)] } : State).setSlot t
        { s.slot t with idx := 0 } := by
  rw [beginBuf, checkOpen_pass h]
  simp [ferrAtBegin, hr, State.emitEv]

theorem writeDiag_of_open {b : Byte} {s : State} (h : s.hopen = some .diag) :
    writeDiag b s = { s with ev := s.ev ++ [.writeByte .diag b], diagOut := s.diagOut ++ [b] } :=
  checkOpen_pass h _

theorem writeBuf_of_busy {t : BufType} {b : Byte} {s : State} (h : s.hopen = some (.buf t))
    (hb : s.ferr.busy = true) : writeBuf t b s = s.emitEv (.writeByte (.buf t) b) := by
  rw [writeBuf, checkOpen_pass h]
  simp [hb]

theorem writeBuf_of_room {t : BufType} {b : Byte} {s : State} (h : s.hopen = some (.buf t))
    (hb : s.ferr.busy = false) (hc : (s.slot t).idx.toNat < cap s.conf t) :
    writeBuf t b s = (s.emitEv (.writeByte (.buf t) b)).appendByte t b := by
  rw [writeBuf, checkOpen_pass h]
  simp [hb, hc]

theorem writeBuf_of_full {t : BufType} {b : Byte} {s : State} (h : s.hopen = some (.buf t))
    (hb : s.ferr.busy = false) (hc : ¬ (s.slot t).idx.toNat < cap s.conf t) :
    writeBuf t b s = (s.emitEv (.writeByte (.buf t) b)).setOverflow := by
  rw [writeBuf, checkOpen_pass h]
  simp [hb, hc]

theorem endDiag_of_open {s : State} (h : s.hopen = some .diag) :
    endDiag s = { s with hopen := none, ev := s.ev ++ [.endFrame .diag s.ferr] } :=
  checkOpen_pass h _

theorem endBuf_of_delivered {t : BufType} {s : State} (h : s.hopen = some (.buf t))
    (hd : delivers s.conf s.ferr = true) :
    endBuf t s =
      (({ s with hopen := none, ev := s.ev ++ [.endFrame (.buf t) s.ferr] } : State).setSlot t
        { s.slot t with len := (s.slot t).idx, err := s.ferr, ready := true }).emitNotify t := by
  rw [endBuf, checkOpen_pass h]
  simp [hd, State.emitEv]

theorem endBuf_of_dropped {t : BufType} {s : State} (h : s.hopen = some (.buf t))
    (hd : delivers s.conf s.ferr = false) :
    endBuf t s = { s with hopen := none, ev := s.ev ++ [.endFrame (.buf t) s.ferr] } := by
  rw [endBuf, checkOpen_pass h]
  simp [hd, State.emitEv]

/-! ## An event out of sequence (R131) -/

theorem hBegin_of_open {t : FrameType} {s : State} (h : s.hopen ≠ none) :
    hBegin t s = s.raiseFault .protocol := by
  cases t <;> simp only [hBegin, beginDiag, beginBuf] <;> exact checkOpen_fail h _

theorem hWrite_of_other {t : FrameType} {b : Byte} {s : State} (h : s.hopen ≠ some t) :
    hWrite t b s = s.raiseFault .protocol := by
  cases t <;> simp only [hWrite, writeDiag, writeBuf] <;> exact checkOpen_fail h _

theorem hEnd_of_other {t : FrameType} {s : State} (h : s.hopen ≠ some t) :
    hEnd t s = s.raiseFault .protocol := by
  cases t <;> simp only [hEnd, endDiag, endBuf] <;> exact checkOpen_fail h _

/-! ## Everything an event in sequence can do -/

/-- A slot's replacement, seen in the two fields. -/
theorem setSlot_eq (s : State) (t : BufType) (v : Slot) :
    ∃ c i, s.setSlot t v = { s with cfgSlot := c, ipSlot := i } := by
  cases t
  · exact ⟨v, s.ipSlot, rfl⟩
  · exact ⟨s.cfgSlot, v, rfl⟩

/-- A begin event with no frame open: the frame is open, `FERR` is empty or exactly `BUSY`, and the event is recorded. -/
theorem hBegin_closed {t : FrameType} {s : State} (h : s.hopen = none) :
    ∃ e c i, hBegin t s =
        { s with hopen := some t, ferr := e, ev := s.ev ++ [.beginFrame t], cfgSlot := c, ipSlot := i } ∧
      (e = .empty ∨ (e = .onlyBusy ∧ t ≠ .diag)) := by
  cases t with
  | diag => exact ⟨_, _, _, beginDiag_of_closed h, .inl rfl⟩
  | buf t =>
    cases hr : (s.slot t).ready
    · obtain ⟨c, i, hs⟩ := setSlot_eq
        { s with hopen := some (.buf t), ferr := .empty, ev := s.ev ++ [.beginFrame (.buf t)] } t
        { s.slot t with idx := 0 }
      exact ⟨_, c, i, (beginBuf_of_free h hr).trans hs, .inl rfl⟩
    · exact ⟨_, _, _, beginBuf_of_busy h hr, .inr ⟨rfl, by simp⟩⟩

/-- A write event of the open frame's type: the event is recorded, and `FERR` stays or gains `OVF`. -/
theorem hWrite_open {t : FrameType} {b : Byte} {s : State} (h : s.hopen = some t) :
    ∃ e c i d, hWrite t b s =
        { s with ferr := e, ev := s.ev ++ [.writeByte t b], diagOut := d, cfgSlot := c, ipSlot := i } ∧
      (e = s.ferr ∨ (e = { s.ferr with ovf := true } ∧ s.ferr.busy = false ∧ t ≠ .diag)) := by
  cases t with
  | diag => exact ⟨_, _, _, _, writeDiag_of_open h, .inl rfl⟩
  | buf t =>
    cases hb : s.ferr.busy
    · by_cases hc : (s.slot t).idx.toNat < cap s.conf t
      · obtain ⟨c, i, hs⟩ := setSlot_eq (s.emitEv (.writeByte (.buf t) b)) t
          { s.slot t with buf := (s.slot t).buf.write (s.slot t).idx.toNat b, idx := (s.slot t).idx + 1 }
        refine ⟨_, c, i, s.diagOut, (writeBuf_of_room h hb hc).trans ?_, .inl rfl⟩
        simp only [State.appendByte, State.emitEv_slot]
        rw [hs]
        rfl
      · exact ⟨_, _, _, _, writeBuf_of_full h hb hc, .inr ⟨rfl, rfl, by simp⟩⟩
    · exact ⟨_, _, _, _, writeBuf_of_busy h hb, .inl rfl⟩

/-- An end event of the open frame's type: the frame is closed and its error set reported. -/
theorem hEnd_open {t : FrameType} {s : State} (h : s.hopen = some t) :
    ∃ c i n, hEnd t s =
      { s with hopen := none, ev := s.ev ++ [.endFrame t s.ferr], notify := n, cfgSlot := c, ipSlot := i } := by
  cases t with
  | diag => exact ⟨_, _, _, endDiag_of_open h⟩
  | buf t =>
    cases hd : delivers s.conf s.ferr
    · exact ⟨_, _, _, endBuf_of_dropped h hd⟩
    · obtain ⟨c, i, hs⟩ := setSlot_eq { s with hopen := none, ev := s.ev ++ [.endFrame (.buf t) s.ferr] } t
        { s.slot t with len := (s.slot t).idx, err := s.ferr, ready := true }
      refine ⟨c, i, s.notify ++ [t], (endBuf_of_delivered h hd).trans ?_⟩
      rw [hs]
      rfl

end Sys2Proof.Machine
end

