-- ==== Sys2Proof/Laws/Invariants.lean ====
section
/-! SUPPORT. Each invariant of Safety.lean depends only on the fields it names: it passes to every state that agrees on
them. -/

namespace Sys2Proof.Machine

theorem RxInv.congr {s s' : State} (h : RxInv s) (hp : s'.pending = s.pending) (hd : s'.dstate = s.dstate)
    (ho : s'.hopen = s.hopen) (he : s'.ferr = s.ferr) : RxInv s' where
  noEvents := by rw [hp]; exact h.noEvents
  openFrame := by rw [ho, hd]; exact h.openFrame
  legalState := by rw [hd]; exact h.legalState
  diagErrors := by rw [ho, he]; exact h.diagErrors
  busyNoOverflow := by rw [he]; exact h.busyNoOverflow

/-- The slot is the same, and a frame of its type that is being stored now was being stored before. -/
theorem SlotInv.congr {t : BufType} {s s' : State} (h : SlotInv t s) (hc : s'.conf = s.conf)
    (hs : s'.slot t = s.slot t)
    (ho : s'.hopen = some (.buf t) → s'.ferr.busy = false → s.hopen = some (.buf t) ∧ s.ferr.busy = false) :
    SlotInv t s' where
  bufWf := by rw [hs]; exact h.bufWf
  bufBound := by rw [hs, hc]; exact h.bufBound
  idxLe := by rw [hs, hc]; exact h.idxLe
  lenLe := by rw [hs, hc]; exact h.lenLe
  delivered := by rw [hs]; exact h.delivered
  storing := by rw [hs]; exact fun a b => h.storing (ho a b).1 (ho a b).2
  errClean := by rw [hs, hc]; exact h.errClean

theorem TxInv.congr {s s' : State} (h : TxInv s) (hc : s'.conf = s.conf) (ht : s'.txSide = s.txSide) : TxInv s' := by
  simp only [State.txSide, TxSide.mk.injEq] at ht
  obtain ⟨hreq, howner, hphase, htype, hpayload, hpos, hsubb, -, -⟩ := ht
  exact
    { ownerIdle := by rw [howner, hphase]; exact h.ownerIdle
      posLe := by rw [hpos, hpayload]; exact h.posLe
      ownerRequest := by rw [howner, hreq, htype, hpayload]; exact h.ownerRequest
      markStart := by rw [hphase, htype, hpos]; exact h.markStart
      subLast := by rw [hphase, hpos, hpayload, hsubb, hc]; exact h.subLast
      reqWf := by rw [hreq]; exact h.reqWf
      reqBound := by rw [hreq, hc]; exact h.reqBound }

end Sys2Proof.Machine
end

