-- ==== Sys2Proof/Laws/Memory.lean ====
section
/-! SUPPORT. Stores and buffers: a read after a write, the cells a write leaves alone, and the canonical form, which
every operation keeps. -/

namespace Sys2Proof.Machine

namespace Store

variable {α : Type}

@[simp] theorem read_nil (i : Nat) : Store.read ([] : Store α) i = none := rfl

theorem read_write_same (m : Store α) (i : Nat) (v : α) : Store.read (Store.write m i v) i = some v := by
  induction m with
  | nil => simp [Store.write, Store.read]
  | cons e rest ih =>
    obtain ⟨k, w⟩ := e
    by_cases h₁ : i < k
    · simp [Store.write, Store.read, h₁]
    · by_cases h₂ : i = k
      · simp [Store.write, Store.read, h₂]
      · simp [Store.write, Store.read, h₁, h₂, Ne.symm h₂, ih]

theorem read_write_other (m : Store α) {i j : Nat} (v : α) (h : j ≠ i) :
    Store.read (Store.write m i v) j = Store.read m j := by
  induction m with
  | nil => simp [Store.write, Store.read, Ne.symm h]
  | cons e rest ih =>
    obtain ⟨k, w⟩ := e
    by_cases h₁ : i < k
    · simp [Store.write, Store.read, h₁, Ne.symm h]
    · by_cases h₂ : i = k
      · subst h₂; simp [Store.write, Store.read, Ne.symm h]
      · simp [Store.write, Store.read, h₁, h₂, ih]

theorem read_erase_same (m : Store α) (i : Nat) : Store.read (Store.erase m i) i = none := by
  induction m with
  | nil => rfl
  | cons e rest ih =>
    obtain ⟨k, w⟩ := e
    by_cases h : k = i <;> simp [Store.erase, Store.read, h, ih]

theorem read_erase_other (m : Store α) {i j : Nat} (h : j ≠ i) :
    Store.read (Store.erase m i) j = Store.read m j := by
  induction m with
  | nil => rfl
  | cons e rest ih =>
    obtain ⟨k, w⟩ := e
    by_cases hk : k = i
    · subst hk; simp [Store.erase, Store.read, ih, Ne.symm h]
    · simp [Store.erase, Store.read, hk, ih]

theorem mem_write {m : Store α} {i : Nat} {v : α} {e : Nat × α} (h : e ∈ Store.write m i v) :
    e = (i, v) ∨ e ∈ m := by
  induction m with
  | nil => simpa [Store.write] using h
  | cons x rest ih =>
    obtain ⟨k, w⟩ := x
    by_cases h₁ : i < k
    · simpa [Store.write, h₁] using h
    · by_cases h₂ : i = k
      · simp only [Store.write, h₂, if_true, if_false, lt_irrefl, List.mem_cons] at h ⊢
        tauto
      · simp only [Store.write, h₁, h₂, if_false, List.mem_cons] at h ⊢
        rcases h with h | h
        · tauto
        · have := ih h; tauto

theorem mem_erase {m : Store α} {i : Nat} {e : Nat × α} (h : e ∈ Store.erase m i) : e ∈ m := by
  induction m with
  | nil => exact h
  | cons x rest ih =>
    obtain ⟨k, w⟩ := x
    by_cases hk : k = i
    · simp only [Store.erase, hk, if_true] at h; exact List.mem_cons_of_mem _ (ih h)
    · simp only [Store.erase, hk, if_false, List.mem_cons] at h ⊢
      rcases h with h | h
      · exact .inl h
      · exact .inr (ih h)

theorem key_of_mem {m : Store α} {k : Nat} (h : k ∈ m.map Prod.fst) : ∃ v, (k, v) ∈ m := by
  simpa using h

theorem write_wf {m : Store α} (i : Nat) (v : α) (h : Store.wf m) : Store.wf (Store.write m i v) := by
  induction m with
  | nil => simp [Store.write, Store.wf]
  | cons x rest ih =>
    obtain ⟨k, w⟩ := x
    simp only [Store.wf, List.map_cons, List.pairwise_cons] at h
    by_cases h₁ : i < k
    · simp only [Store.write, h₁, if_true, Store.wf, List.map_cons, List.pairwise_cons, List.mem_cons]
      refine ⟨?_, h⟩
      rintro a (rfl | ha)
      · exact h₁
      · exact lt_trans h₁ (h.1 a ha)
    · by_cases h₂ : i = k
      · subst h₂
        simpa [Store.write, Store.wf] using h
      · simp only [Store.write, h₁, h₂, if_false, Store.wf, List.map_cons, List.pairwise_cons]
        refine ⟨?_, ih h.2⟩
        intro a ha
        obtain ⟨b, hb⟩ := key_of_mem ha
        rcases mem_write hb with e | e
        · cases e; omega
        · exact h.1 a (List.mem_map_of_mem e)

theorem erase_wf {m : Store α} (i : Nat) (h : Store.wf m) : Store.wf (Store.erase m i) := by
  induction m with
  | nil => exact h
  | cons x rest ih =>
    obtain ⟨k, w⟩ := x
    simp only [Store.wf, List.map_cons, List.pairwise_cons] at h
    by_cases hk : k = i
    · simpa [Store.erase, hk] using ih h.2
    · simp only [Store.erase, hk, if_false, Store.wf, List.map_cons, List.pairwise_cons]
      refine ⟨?_, ih h.2⟩
      intro a ha
      obtain ⟨b, hb⟩ := key_of_mem ha
      exact h.1 a (List.mem_map_of_mem (mem_erase hb))

end Store

namespace Memory

theorem read_write_same (m : Memory) (i : Nat) (v : Byte) : (m.write i v).read i = some v :=
  Store.read_write_same m i v

theorem read_write_other (m : Memory) {i j : Nat} (v : Byte) (h : j ≠ i) : (m.write i v).read j = m.read j :=
  Store.read_write_other m v h

theorem write_wf {m : Memory} (i : Nat) (v : Byte) (h : m.wf) : (m.write i v).wf := Store.write_wf i v h

theorem write_bound {m : Memory} {i n : Nat} {v : Byte} (h : ∀ cell ∈ m, cell.1 < n) (hi : i < n) :
    ∀ cell ∈ m.write i v, cell.1 < n := by
  intro cell hc
  rcases Store.mem_write hc with e | e
  · rw [e]; exact hi
  · exact h cell e

end Memory

theorem slot_reset_wf : Slot.reset.buf.wf := List.Pairwise.nil

end Sys2Proof.Machine
end

