-- ==== Sys2Proof/Laws/PerInstr.lean ====
section
/-! SUPPORT. A law of every instruction: its word carries the fixed bits of its row of the map (30_encoding.md R79 to
R81), with the reserved bytes of R72. -/

namespace Sys2Proof.Laws.RowBits

/-- The place of an instruction's row in its format's list of rows. -/
def place : Instr → Nat
  | .rxBadstate _ => 0
  | .rxIdleEnd => 1
  | .rxIdleDiag => 2
  | .rxIdleCfg => 3
  | .rxIdleOther _ => 4
  | .rxPayEsc _ => 5
  | .rxPayEnd _ => 6
  | .rxPayLit _ _ => 7
  | .rxEscSubend _ => 8
  | .rxEscSubesc _ => 9
  | .rxEscBad _ _ => 10
  | .encIdle _ _ _ => 0
  | .encBadstateNotype _ _ _ => 1
  | .encBadstateMarkip _ _ => 2
  | .encMark _ _ _ => 3
  | .encSub _ _ _ => 4
  | .encClose _ _ => 5
  | .encBodyEnd _ => 6
  | .encBodyEsc _ => 7
  | .encBodyLit _ _ => 8
  | .hBeginDiag => 0
  | .hBeginBuf _ => 1
  | .hWriteDiag _ => 2
  | .hWriteBuf _ _ => 3
  | .hEndDiag => 4
  | .hEndBuf _ => 5
  | .rx _ => 0
  | .consume _ => 1
  | .rdbuf _ _ => 2
  | .rdreg _ => 3
  | .txSubmit _ _ _ => 4
  | .txAcquire _ => 5
  | .txEmit => 6
  | .reservedOp0 => 7
  | .reservedOp8F _ => 8

/-- Row `k` of the list is one the word matches. -/
def fits {n : Nat} (rows : List (MapRow n)) (k : Nat) (w : BitVec n) : Bool :=
  match rows[k]? with
  | some r => decide (w &&& r.mask = r.want)
  | none => false

/-- The word matches row `k` of its format's map. -/
def carries (k : Nat) : CodeWord → Bool
  | .dec w => fits (decRows Config.spec) k w
  | .enc w => fits (encRows Config.spec) k w
  | .ev w => fits evRows k w
  | .port w => fits portRows k w.op

/-- The word of an instruction carries the fixed bits of its row. -/
abbrev Statement (i : Instr) : Prop := carries (place i) (encode Config.spec i) = true

/-- A mask over two joined fields is a mask over each. -/
theorem mask_fields {n m : Nat} (a x : BitVec n) (b y : BitVec m) : (a ++ b) &&& (x ++ y) = (a &&& x) ++ (b &&& y) := by
  ext i hi
  simp only [BitVec.getElem_and, BitVec.getElem_append]
  split <;> simp

theorem fits_intro {n : Nat} {rows : List (MapRow n)} {k : Nat} {w : BitVec n} (r : MapRow n) (h : rows[k]? = some r)
    (hw : w &&& r.mask = r.want) : fits rows k w = true := by
  simp [fits, h, hw]

/-- A DEC word matches a row whose mask leaves the byte open. -/
theorem dec_open {d : DState} {b : Byte} {k : Nat} {x y : BitVec 3}
    (h : (decRows Config.spec)[k]? = some ⟨x ++ 0#8, y ++ 0#8⟩) (hd : d.code &&& y = x) :
    fits (decRows Config.spec) k (decWord d b) = true :=
  fits_intro _ h (by rw [decWord, mask_fields, hd, BitVec.and_zero])

/-- An ENC word matches a row whose mask leaves the byte open. -/
theorem enc_open {ph : TxPhase} {t : Option FrameType} {a : Bool} {c : Byte} {k : Nat} {x y : BitVec 5}
    (h : (encRows Config.spec)[k]? = some ⟨x ++ 0#8, y ++ 0#8⟩)
    (hd : ph.code ++ frameCode t ++ BitVec.ofBool a &&& y = x) :
    fits (encRows Config.spec) k (encWord ph t a c) = true :=
  fits_intro _ h (by rw [encWord]; refine (mask_fields _ _ _ _).trans ?_; rw [hd, BitVec.and_zero])

/-- A WRITE word matches a row whose mask leaves `d` open. -/
theorem ev_open {v : BitVec 2} {t : Option FrameType} {d : BitVec 9} {k : Nat} {x y : BitVec 4}
    (h : evRows[k]? = some ⟨x ++ 0#9, y ++ 0#9⟩) (hd : v ++ frameCode t &&& y = x) :
    fits evRows k (evWord v t d) = true :=
  fits_intro _ h (by rw [evWord]; refine (mask_fields _ _ _ _).trans ?_; rw [hd, BitVec.and_zero])

theorem rxBadstate (b : Byte) : Statement (.rxBadstate b) :=
  dec_open (d := .unused) (b := b) (k := 0) (x := 1#3) (y := 7#3) rfl rfl
theorem rxIdleEnd : Statement .rxIdleEnd := by decide
theorem rxIdleDiag : Statement .rxIdleDiag := by decide
theorem rxIdleCfg : Statement .rxIdleCfg := by decide
theorem rxIdleOther (b : Byte) : Statement (.rxIdleOther b) :=
  dec_open (d := .idle) (b := b) (k := 4) (x := 0#3) (y := 7#3) rfl rfl
theorem rxPayEsc (t : FrameType) : Statement (.rxPayEsc t) := by rcases t with _ | (_ | _) <;> decide
theorem rxPayEnd (t : FrameType) : Statement (.rxPayEnd t) := by rcases t with _ | (_ | _) <;> decide
theorem rxPayLit (t : FrameType) (b : Byte) : Statement (.rxPayLit t b) :=
  dec_open (d := .pay t) (b := b) (k := 7) (x := 0#3) (y := 1#3) rfl (by rcases t with _ | (_ | _) <;> rfl)
theorem rxEscSubend (t : FrameType) : Statement (.rxEscSubend t) := by rcases t with _ | (_ | _) <;> decide
theorem rxEscSubesc (t : FrameType) : Statement (.rxEscSubesc t) := by rcases t with _ | (_ | _) <;> decide
theorem rxEscBad (t : FrameType) (b : Byte) : Statement (.rxEscBad t b) :=
  dec_open (d := .esc t) (b := b) (k := 10) (x := 1#3) (y := 1#3) rfl (by rcases t with _ | (_ | _) <;> rfl)
theorem encIdle (t : Option FrameType) (a : Bool) (c : Byte) : Statement (.encIdle t a c) :=
  enc_open (ph := .idle) (t := t) (a := a) (c := c) (k := 0) (x := 0#5) (y := 24#5) rfl (by rcases t with _ | (_ | (_ | _)) <;> cases a <;> rfl)
theorem encBadstateNotype (ph : TxPhase) (a : Bool) (c : Byte) : Statement (.encBadstateNotype ph a c) :=
  enc_open (ph := ph) (t := none) (a := a) (c := c) (k := 1) (x := 0#5) (y := 6#5) rfl (by cases ph <;> cases a <;> rfl)
theorem encBadstateMarkip (a : Bool) (c : Byte) : Statement (.encBadstateMarkip a c) :=
  enc_open (ph := .mark) (t := some (.buf .ip)) (a := a) (c := c) (k := 2) (x := 14#5) (y := 30#5) rfl (by cases a <;> rfl)
theorem encMark (t : FrameType) (a : Bool) (c : Byte) : Statement (.encMark t a c) :=
  enc_open (ph := .mark) (t := some t) (a := a) (c := c) (k := 3) (x := 8#5) (y := 24#5) rfl (by rcases t with _ | (_ | _) <;> cases a <;> rfl)
theorem encSub (t : FrameType) (a : Bool) (c : Byte) : Statement (.encSub t a c) :=
  enc_open (ph := .sub) (t := some t) (a := a) (c := c) (k := 4) (x := 24#5) (y := 24#5) rfl (by rcases t with _ | (_ | _) <;> cases a <;> rfl)
theorem encClose (t : FrameType) (c : Byte) : Statement (.encClose t c) :=
  enc_open (ph := .body) (t := some t) (a := true) (c := c) (k := 5) (x := 17#5) (y := 25#5) rfl (by rcases t with _ | (_ | _) <;> rfl)
theorem encBodyEnd (t : FrameType) : Statement (.encBodyEnd t) := by rcases t with _ | (_ | _) <;> decide
theorem encBodyEsc (t : FrameType) : Statement (.encBodyEsc t) := by rcases t with _ | (_ | _) <;> decide
theorem encBodyLit (t : FrameType) (c : Byte) : Statement (.encBodyLit t c) :=
  enc_open (ph := .body) (t := some t) (a := false) (c := c) (k := 8) (x := 16#5) (y := 25#5) rfl (by rcases t with _ | (_ | _) <;> rfl)
theorem hBeginDiag : Statement .hBeginDiag := by decide
theorem hBeginBuf (t : BufType) : Statement (.hBeginBuf t) := by cases t <;> decide
theorem hWriteDiag (b : Byte) : Statement (.hWriteDiag b) :=
  ev_open (v := 2#2) (t := some .diag) (d := 0#1 ++ b) (k := 2) (x := 9#4) (y := 15#4) rfl rfl
theorem hWriteBuf (t : BufType) (b : Byte) : Statement (.hWriteBuf t b) :=
  ev_open (v := 2#2) (t := some (.buf t)) (d := 0#1 ++ b) (k := 3) (x := 10#4) (y := 14#4) rfl (by cases t <;> rfl)
theorem hEndDiag : Statement .hEndDiag := by decide
theorem hEndBuf (t : BufType) : Statement (.hEndBuf t) := by cases t <;> decide
theorem rx (b : Byte) : Statement (.rx b) := by
  simp [Statement, carries, place, encode, fits, portRows]
theorem consume (t : BufType) : Statement (.consume t) := by
  simp [Statement, carries, place, encode, fits, portRows]
theorem rdbuf (t : BufType) (i : Word) : Statement (.rdbuf t i) := by
  simp [Statement, carries, place, encode, fits, portRows]
theorem rdreg (n : Byte) : Statement (.rdreg n) := by
  simp [Statement, carries, place, encode, fits, portRows]
theorem txSubmit (p : Nat) (t : FrameType) (payload : List Byte) : Statement (.txSubmit p t payload) := by
  simp [Statement, carries, place, encode, fits, portRows]
theorem txAcquire (p : Nat) : Statement (.txAcquire p) := by
  simp [Statement, carries, place, encode, fits, portRows]
theorem txEmit : Statement .txEmit := rfl
theorem reservedOp0 : Statement .reservedOp0 := rfl
theorem reservedOp8F (lo : BitVec 3) : Statement (.reservedOp8F lo) := by revert lo; decide

end Sys2Proof.Laws.RowBits
end

