-- ==== Sys2Proof/Tests/Slice0.lean ====
section
/-! SUPPORT. The model's own tests: the smoke of WellFormed, one word of each row decoded, one step of each row with the
result 95_test_vectors.md or a rule gives, and for each statement of Obligations.lean a state and operands that meet its
hypotheses. -/

namespace Sys2Proof.Tests

open Sys2Proof.Machine

/-! ## Helpers -/

/-- The next state of an outcome, where it is one. -/
def after (o : Host.Outcome State Fault Refusal) : Option State :=
  match o with
  | .next s => some s
  | .fault _ => none
  | .refused _ => none

/-- The outcome is a next state with property `p`. -/
def nextHas (o : Host.Outcome State Fault Refusal) (p : State → Bool) : Bool :=
  match after o with
  | some s => p s
  | none => false

/-- The reason of a refusal, where the outcome is one. -/
def refusal (o : Host.Outcome State Fault Refusal) : Option Refusal :=
  match o with
  | .next _ => none
  | .fault _ => none
  | .refused r => some r

/-- The reason of a fault outcome, where it is one. -/
def faultOf (o : Host.Outcome State Fault Refusal) : Option Fault :=
  match o with
  | .next _ => none
  | .fault r => some r
  | .refused _ => none

/-- The program is done, in a state with property `p`. -/
def finishedHas (o : Progress) (p : State → Bool) : Bool :=
  match o with
  | .finished s => p s
  | .running _ _ => false
  | .held _ _ => false
  | .fault _ => false
  | .refused _ => false

/-- The instruction a word spells, where it spells one. -/
def spelt (w : CodeWord) : Option Instr :=
  match decode Config.spec w with
  | .ok i => some i
  | .error _ => none

/-- The `EV` stream as event words (R76). -/
def evWords (s : State) : List (BitVec 13) := s.ev.map Event.word

/-- Reset with the decoder in state `d` and its frame open. -/
def decoding (d : DState) : State := { State.reset with dstate := d, hopen := d.frame }

/-- A slot with these bytes stored. -/
def holding (bs : List (Nat × Byte)) (idx len : Word) (ready : Bool) : Slot :=
  { buf := bs, idx := idx, len := len, ready := ready, err := .empty }

/-- Reset with producer 0's frame in flight. -/
def sending (ph : TxPhase) (t : FrameType) (payload : List Byte) (pos : Nat) : State :=
  { State.reset with
    txReq := [(0, { frame := t, payload := payload })]
    txOwner := some 0
    txPhase := ph
    txType := some t
    txPayload := payload
    txPos := pos }

/-- The end of vector V1: one configuration frame delivered. -/
def endOfV1 : State :=
  { State.reset with
    cfgSlot := holding [(0, 0x01), (1, 0x02)] 2 2 true
    ev := [.beginFrame (.buf .cfg), .writeByte (.buf .cfg) 0x01, .writeByte (.buf .cfg) 0x02,
      .endFrame (.buf .cfg) .empty]
    notify := [.cfg] }

/-- A block in the middle of everything: an IP frame delivered and not drained, a configuration frame with two bytes stored,
a frame of producer 0 in flight in phase SUB, a request of producer 1 waiting, and a `TX_EMIT` presented. -/
def busyBlock : State :=
  { State.reset with
    dstate := .pay (.buf .cfg)
    hopen := some (.buf .cfg)
    cfgSlot := holding [(0, 0x01), (1, 0x02)] 2 0 false
    ipSlot := holding [(0, 0x45), (1, 0x01)] 2 2 true
    ev := [.beginFrame (.buf .ip), .writeByte (.buf .ip) 0x45, .writeByte (.buf .ip) 0x01,
      .endFrame (.buf .ip) .empty, .beginFrame (.buf .cfg), .writeByte (.buf .cfg) 0x01,
      .writeByte (.buf .cfg) 0x02]
    notify := [.ip]
    txReq := [(0, { frame := .buf .cfg, payload := [0xC0, 0x01] }), (1, { frame := .diag, payload := [] })]
    txOwner := some 0
    txPhase := .sub
    txType := some (.buf .cfg)
    txPayload := [0xC0, 0x01]
    txPos := 1
    txSubb := 0xDC
    wire := [0xA9, 0xDB]
    pending := [.port { op := 7 }] }

/-! ## The smoke of WellFormed -/

theorem test_wf_refuses_reserved_idle_byte :
    (Instr.rxIdleOther 0xC0).wf Config.spec = false ∧ (Instr.rxIdleOther 0x0A).wf Config.spec = false ∧
      (Instr.rxIdleOther 0xA9).wf Config.spec = false ∧ (Instr.rxIdleOther 0xDB).wf Config.spec = true := by decide

theorem test_wf_refuses_reserved_payload_literal :
    (Instr.rxPayLit .diag 0xDB).wf Config.spec = false ∧ (Instr.rxPayLit .diag 0xC0).wf Config.spec = false ∧
      (Instr.rxPayLit .diag 0x0A).wf Config.spec = true := by decide

theorem test_wf_refuses_substitute_as_violation :
    (Instr.rxEscBad .diag 0xDC).wf Config.spec = false ∧ (Instr.rxEscBad .diag 0xDD).wf Config.spec = false ∧
      (Instr.rxEscBad .diag 0xC0).wf Config.spec = true := by decide

theorem test_wf_refuses_badstate_in_idle : (Instr.encBadstateNotype .idle true 0).wf Config.spec = false := by decide

theorem test_wf_refuses_mark_of_ip : (Instr.encMark (.buf .ip) false 0).wf Config.spec = false := by decide

theorem test_wf_refuses_reserved_body_literal :
    (Instr.encBodyLit .diag 0xC0).wf Config.spec = false ∧ (Instr.encBodyLit .diag 0xDB).wf Config.spec = false := by
  decide

theorem test_wf_refuses_reserved_register :
    (Instr.rdreg 5).wf Config.spec = false ∧ (Instr.rdreg 255).wf Config.spec = false ∧
      (Instr.rdreg 4).wf Config.spec = true := by decide

theorem test_wf_refuses_absent_producer :
    (Instr.txSubmit 2 .diag []).wf Config.spec = false ∧ (Instr.txAcquire 2).wf Config.spec = false ∧
      (Instr.txAcquire 1).wf Config.spec = true := by decide

theorem test_wf1_each_pair :
    { Config.spec with endByte := 0xDB }.wf1 = false ∧ { Config.spec with endByte := 0x0A }.wf1 = false ∧
      { Config.spec with endByte := 0xA9 }.wf1 = false ∧ { Config.spec with diagMarker := 0xDB }.wf1 = false ∧
      { Config.spec with cfgMarker := 0xDB }.wf1 = false ∧ { Config.spec with cfgMarker := 0x0A }.wf1 = false := by decide

theorem test_wf2_and_wf3 :
    { Config.spec with escEsc := 0xDC }.wf2 = false ∧ { Config.spec with escEnd := 0xC0 }.wf3 = false ∧
      { Config.spec with escEnd := 0xDB }.wf3 = false ∧ { Config.spec with escEsc := 0xC0 }.wf3 = false ∧
      { Config.spec with escEsc := 0xDB }.wf3 = false := by decide

theorem test_wf_ranges :
    { Config.spec with cfgCap := 0 }.wf = false ∧ { Config.spec with cfgCap := 4294967296 }.wf = false ∧
      { Config.spec with ipCap := 0 }.wf = false ∧ { Config.spec with ipCap := 4294967296 }.wf = false ∧
      { Config.spec with nprod := 0 }.wf = false ∧ { Config.spec with cfgCap := 4294967295, ipCap := 1 }.wf = true := by
  decide

/-! ## One word of each row, written out from R73 to R76 -/

theorem test_decode_RX_BADSTATE : spelt (.dec 0b00111111111) = some (.rxBadstate 0xFF) := by decide
theorem test_decode_RX_IDLE_END : spelt (.dec 0b00011000000) = some .rxIdleEnd := by decide
theorem test_decode_RX_IDLE_DIAG : spelt (.dec 0b00000001010) = some .rxIdleDiag := by decide
theorem test_decode_RX_IDLE_CFG : spelt (.dec 0b00010101001) = some .rxIdleCfg := by decide
theorem test_decode_RX_IDLE_OTHER : spelt (.dec 0b00001000101) = some (.rxIdleOther 0x45) := by decide
theorem test_decode_RX_PAY_ESC : spelt (.dec 0b10011011011) = some (.rxPayEsc (.buf .cfg)) := by decide
theorem test_decode_RX_PAY_END : spelt (.dec 0b01011000000) = some (.rxPayEnd .diag) := by decide
theorem test_decode_RX_PAY_LIT : spelt (.dec 0b11000001010) = some (.rxPayLit (.buf .ip) 0x0A) := by decide
theorem test_decode_RX_ESC_SUBEND : spelt (.dec 0b10111011100) = some (.rxEscSubend (.buf .cfg)) := by decide
theorem test_decode_RX_ESC_SUBESC : spelt (.dec 0b11111011101) = some (.rxEscSubesc (.buf .ip)) := by decide
theorem test_decode_RX_ESC_BAD : spelt (.dec 0b11111000000) = some (.rxEscBad (.buf .ip) 0xC0) := by decide
theorem test_decode_ENC_IDLE : spelt (.enc 0b0000000000000) = some (.encIdle none false 0x00) := by decide
theorem test_decode_ENC_BADSTATE_NOTYPE :
    spelt (.enc 0b1000000000000) = some (.encBadstateNotype .body false 0x00) := by decide
theorem test_decode_ENC_BADSTATE_MARKIP :
    spelt (.enc 0b0111000000000) = some (.encBadstateMarkip false 0x00) := by decide
theorem test_decode_ENC_MARK : spelt (.enc 0b0110011000000) = some (.encMark (.buf .cfg) false 0xC0) := by decide
theorem test_decode_ENC_SUB : spelt (.enc 0b1111100000000) = some (.encSub (.buf .ip) true 0x00) := by decide
theorem test_decode_ENC_CLOSE : spelt (.enc 0b1011100000000) = some (.encClose (.buf .ip) 0x00) := by decide
theorem test_decode_ENC_BODY_END : spelt (.enc 0b1001011000000) = some (.encBodyEnd .diag) := by decide
theorem test_decode_ENC_BODY_ESC : spelt (.enc 0b1011011011011) = some (.encBodyEsc (.buf .ip)) := by decide
theorem test_decode_ENC_BODY_LIT : spelt (.enc 0b1010000000001) = some (.encBodyLit (.buf .cfg) 0x01) := by decide
theorem test_decode_H_BEGIN_DIAG : spelt (.ev 0b0101000000000) = some .hBeginDiag := by decide
theorem test_decode_H_BEGIN_BUF : spelt (.ev 0b0111000000000) = some (.hBeginBuf .ip) := by decide
theorem test_decode_H_WRITE_DIAG : spelt (.ev 0b1001001000001) = some (.hWriteDiag 0x41) := by decide
theorem test_decode_H_WRITE_BUF : spelt (.ev 0b1010000000111) = some (.hWriteBuf .cfg 0x07) := by decide
theorem test_decode_H_END_DIAG : spelt (.ev 0b1101000000001) = some .hEndDiag := by decide
theorem test_decode_H_END_BUF : spelt (.ev 0b1111000000100) = some (.hEndBuf .ip) := by decide
theorem test_decode_RX : spelt (.port { op := 0b0001, b := 0xA9 }) = some (.rx 0xA9) := by decide
theorem test_decode_CONSUME : spelt (.port { op := 0b0010, t := 0b10 }) = some (.consume .cfg) := by decide
theorem test_decode_RDBUF : spelt (.port { op := 0b0011, t := 0b11, i := 3 }) = some (.rdbuf .ip 3) := by decide
theorem test_decode_RDREG : spelt (.port { op := 0b0100, n := 1 }) = some (.rdreg 1) := by decide
theorem test_decode_TX_SUBMIT :
    spelt (.port { op := 0b0101, p := 0, t := 0b10, payload := [0x01, 0xC0] }) =
      some (.txSubmit 0 (.buf .cfg) [0x01, 0xC0]) := by decide
theorem test_decode_TX_ACQUIRE : spelt (.port { op := 0b0110, p := 1 }) = some (.txAcquire 1) := by decide
theorem test_decode_TX_EMIT : spelt (.port { op := 0b0111 }) = some .txEmit := by decide
theorem test_decode_RESERVED_OP_0 : spelt (.port { op := 0b0000 }) = some .reservedOp0 := by decide
theorem test_decode_RESERVED_OP_8_F :
    spelt (.port { op := 0b1000 }) = some (.reservedOp8F 0b000) ∧
      spelt (.port { op := 0b1111 }) = some (.reservedOp8F 0b111) := by decide

/-- R78 (K-9), R82: the operand words that spell nothing. -/
theorem test_decode_refuses_operands :
    spelt (.port { op := 2, t := 0b01 }) = none ∧ spelt (.port { op := 3, t := 0b00 }) = none ∧
      spelt (.port { op := 4, n := 5 }) = none ∧ spelt (.port { op := 5, t := 0b00 }) = none ∧
      spelt (.port { op := 5, t := 0b01, p := 2 }) = none ∧ spelt (.port { op := 6, p := 2 }) = none ∧
      spelt (.ev 0b0001000000000) = none ∧ spelt (.ev 0b0100000000000) = none := by decide

/-- R79, R80: a word of a later row that an earlier row takes. -/
theorem test_decode_priority :
    spelt (.dec 0x0DB) = some (.rxIdleOther 0xDB) ∧ spelt (.dec 0x1DC) = some (.rxBadstate 0xDC) ∧
      spelt (.enc 0x0000) = some (.encIdle none false 0) ∧
      spelt (.enc 0x1800) = some (.encBadstateNotype .sub false 0) := by decide

/-! ## The decoder: vectors D-1 to D-19 -/

theorem test_D19_RX_BADSTATE :
    nextHas (exec (.rx 0x55) (decoding .unused)) (fun s => s.fault && decide (s.faultCause = some .badDstate) &&
      decide (s.ev = [])) = true := by decide

theorem test_D1_RX_IDLE_END : after (exec (.rx 0xC0) State.reset) = some State.reset := by decide

theorem test_D2_RX_IDLE_DIAG :
    nextHas (exec (.rx 0x0A) { State.reset with ferr := .onlyBusy }) (fun s => decide (s.dstate.code = 0b010) &&
      decide (evWords s = [0x0A00]) && decide (s.ferr = .empty)) = true := by decide

theorem test_D3_RX_IDLE_CFG :
    nextHas (exec (.rx 0xA9) { State.reset with cfgSlot := holding [] 5 0 false }) (fun s =>
      decide (s.dstate.code = 0b100) && decide (evWords s = [0x0C00]) && decide (s.cfgSlot.idx = 0) &&
      decide (s.ferr.code = 0)) = true := by decide

theorem test_D4_RX_IDLE_CFG_busy :
    nextHas (exec (.rx 0xA9) { State.reset with cfgSlot := holding [] 5 0 true }) (fun s =>
      decide (s.dstate.code = 0b100) && decide (evWords s = [0x0C00]) && decide (s.cfgSlot.idx = 5) &&
      decide (s.ferr.code = 0b100)) = true := by decide

theorem test_D5_RX_IDLE_OTHER :
    nextHas (exec (.rx 0x45) State.reset) (fun s => decide (s.dstate.code = 0b110) &&
      decide (evWords s = [0x0E00, 0x1645]) && decide (s.ipSlot.buf = [(0, 0x45)]) && decide (s.ipSlot.idx = 1)) =
      true := by decide

theorem test_D6_RX_IDLE_OTHER_escape_is_payload :
    nextHas (exec (.rx 0xDB) State.reset) (fun s => decide (s.dstate.code = 0b110) &&
      decide (evWords s = [0x0E00, 0x16DB])) = true := by decide

theorem test_D8_RX_PAY_ESC :
    nextHas (exec (.rx 0xDB) (decoding (.pay (.buf .cfg)))) (fun s => decide (s.dstate.code = 0b101) &&
      decide (s.ev = [])) = true := by decide

theorem test_D9_RX_PAY_END :
    nextHas (exec (.rx 0xC0) { decoding (.pay (.buf .cfg)) with cfgSlot := holding [(0, 1), (1, 2)] 2 0 false })
      (fun s => decide (s.dstate.code = 0b000) && decide (evWords s = [0x1C00]) && s.cfgSlot.ready &&
        decide (s.cfgSlot.len = 2) && decide (s.notify = [.cfg])) = true := by decide

theorem test_D10_RX_PAY_END_diag :
    nextHas (exec (.rx 0xC0) (decoding (.pay .diag))) (fun s => decide (s.dstate.code = 0b000) &&
      decide (evWords s = [0x1A00]) && decide (s.notify = []) && decide (s.hopen = none)) = true := by decide

theorem test_D11_RX_PAY_LIT_marker :
    nextHas (exec (.rx 0x0A) (decoding (.pay (.buf .ip)))) (fun s => decide (s.dstate.code = 0b110) &&
      decide (evWords s = [0x160A])) = true := by decide

theorem test_D13_RX_PAY_LIT_substitute :
    nextHas (exec (.rx 0xDC) (decoding (.pay (.buf .ip)))) (fun s => decide (s.dstate.code = 0b110) &&
      decide (evWords s = [0x16DC])) = true := by decide

theorem test_D14_RX_ESC_SUBEND :
    nextHas (exec (.rx 0xDC) (decoding (.esc (.buf .cfg)))) (fun s => decide (s.dstate.code = 0b100) &&
      decide (evWords s = [0x14C0]) && decide (s.cfgSlot.buf = [(0, 0xC0)])) = true := by decide

theorem test_D15_RX_ESC_SUBESC :
    nextHas (exec (.rx 0xDD) (decoding (.esc (.buf .ip)))) (fun s => decide (s.dstate.code = 0b110) &&
      decide (evWords s = [0x16DB]) && decide (s.ipSlot.buf = [(0, 0xDB)])) = true := by decide

theorem test_D16_RX_ESC_BAD :
    nextHas (exec (.rx 0x42) (decoding (.esc .diag))) (fun s => decide (s.dstate.code = 0b010) &&
      decide (evWords s = [0x1242]) && s.ferr.esc && decide (s.diagOut = [0x42])) = true := by decide

theorem test_D17_RX_ESC_BAD_delimiter :
    nextHas (exec (.rx 0xC0) (decoding (.esc (.buf .ip)))) (fun s => decide (s.dstate.code = 0b110) &&
      decide (evWords s = [0x16C0]) && s.ferr.esc) = true := by decide

/-! ## The accumulator: vectors H-1 to H-15 -/

theorem test_H1_H_BEGIN_DIAG :
    nextHas (exec .hBeginDiag { State.reset with ferr := .onlyBusy }) (fun s => decide (frameCode s.hopen = 0b01) &&
      decide (s.ferr.code = 0)) = true := by decide

theorem test_H2_H_BEGIN_BUF :
    nextHas (exec (.hBeginBuf .ip) { State.reset with ipSlot := holding [] 5 0 false }) (fun s =>
      decide (frameCode s.hopen = 0b11) && decide (s.ferr.code = 0) && decide (s.ipSlot.idx = 0)) = true := by decide

theorem test_H3_H_BEGIN_BUF_busy :
    nextHas (exec (.hBeginBuf .ip) { State.reset with ipSlot := holding [] 5 0 true }) (fun s =>
      decide (frameCode s.hopen = 0b11) && decide (s.ferr.code = 0b100) && decide (s.ipSlot.idx = 5)) = true := by
  decide

theorem test_H4_H_WRITE_DIAG :
    nextHas (exec (.hWriteDiag 0x41) { State.reset with hopen := some .diag }) (fun s =>
      decide (s.diagOut = [0x41]) && decide (evWords s = [0x1241])) = true := by decide

theorem test_H5_H_WRITE_BUF_last_cell :
    nextHas (exec (.hWriteBuf .cfg 0x07) { State.reset with
        conf := { Config.spec with cfgCap := 2 }, hopen := some (.buf .cfg), cfgSlot := holding [(0, 6)] 1 0 false })
      (fun s => decide (s.cfgSlot.buf = [(0, 6), (1, 7)]) && decide (s.cfgSlot.idx = 2) && decide (s.ferr.code = 0)) =
      true := by decide

theorem test_H6_H_WRITE_BUF_overflow :
    nextHas (exec (.hWriteBuf .cfg 0x07) { State.reset with
        conf := { Config.spec with cfgCap := 2 }
        hopen := some (.buf .cfg)
        cfgSlot := holding [(0, 6), (1, 5)] 2 0 false })
      (fun s => decide (s.cfgSlot.buf = [(0, 6), (1, 5)]) && decide (s.cfgSlot.idx = 2) &&
        decide (s.ferr.code = 0b010)) = true := by decide

theorem test_H8_H_END_DIAG :
    nextHas (exec .hEndDiag { State.reset with hopen := some .diag, ferr := { ErrorSet.empty with esc := true } })
      (fun s => decide (evWords s = [0x1A01]) && decide (s.hopen = none)) = true := by decide

theorem test_H10_H_END_BUF_discards :
    nextHas (exec (.hEndBuf .cfg) { State.reset with
        hopen := some (.buf .cfg), ferr := { ErrorSet.empty with ovf := true } })
      (fun s => decide (evWords s = [0x1C02]) && !s.cfgSlot.ready && decide (s.notify = [])) = true := by decide

theorem test_H11_H_END_BUF_errored :
    nextHas (exec (.hEndBuf .cfg) { State.reset with
        conf := { Config.spec with deliverErrored := true }
        hopen := some (.buf .cfg)
        ferr := { ErrorSet.empty with ovf := true }
        cfgSlot := holding [] 2 0 false })
      (fun s => decide (s.cfgSlot.len = 2) && decide (s.cfgSlot.err.code = 0b010) && decide (s.notify = [.cfg]) &&
        decide (status s = 0x00001201)) = true := by decide

theorem test_H14_protocol :
    nextHas (exec (.hBeginBuf .ip) { State.reset with hopen := some (.buf .cfg) }) (fun s =>
      decide (s.faultCause = some .protocol) && decide (s.ev = [])) = true := by decide

/-! ## The consumer port: vectors K-1 to K-13 -/

theorem test_K1_RDREG_status : nextHas (exec (.rdreg 0) endOfV1) (fun s => decide (s.reply = .word 1)) = true := by decide
theorem test_K12_RDREG_ip_idx :
    nextHas (exec (.rdreg 4) { decoding (.pay (.buf .ip)) with ipSlot := holding [(0, 0x45), (1, 1)] 2 0 false })
      (fun s => decide (s.reply = .word 2)) = true := by decide
theorem test_K3_RDBUF : nextHas (exec (.rdbuf .cfg 1) endOfV1) (fun s => decide (s.reply = .byte 0x02)) = true := by decide
theorem test_K4_RDBUF_past_the_end :
    nextHas (exec (.rdbuf .cfg 2) endOfV1) (fun s => decide (s.faultCause = some .consumerContract)) = true := by decide
theorem test_K5_CONSUME :
    nextHas (exec (.consume .cfg) endOfV1) (fun s => !s.cfgSlot.ready && decide (status s = 0)) = true := by decide
theorem test_K6_CONSUME_no_op : after (exec (.consume .ip) State.reset) = some State.reset := by decide
theorem test_K10_RDREG_refused :
    refusal (exec (.rdreg 5) State.reset) = some (.illegalOperand (.reservedRegister 5)) := by decide
theorem test_K11_RESERVED_OP_0 : refusal (exec .reservedOp0 State.reset) = some (.reservedOperation 0x0) := by decide
theorem test_K11_RESERVED_OP_8_F :
    refusal (exec (.reservedOp8F 0) State.reset) = some (.reservedOperation 0x8) ∧
      refusal (exec (.reservedOp8F 7) State.reset) = some (.reservedOperation 0xF) := by decide
theorem test_K13_RX_after_a_fault :
    faultOf (exec (.rx 0x45) (State.reset.raiseFault .protocol)) = some (.halted (some .protocol)) := by decide

/-- D-23: `STATUS` with an IP frame open. -/
theorem test_RX_status :
    nextHas (exec (.rx 0x01) { decoding (.pay (.buf .ip)) with ipSlot := holding [(0, 0x45)] 1 0 false })
      (fun s => decide (status s = 0x000000F0)) = true := by decide

/-! ## The transmit path: the trace of 95_test_vectors.md §2.4 and vectors E-1 to E-12 -/

theorem test_trace1_TX_SUBMIT :
    nextHas (exec (.txSubmit 0 (.buf .cfg) [0xC0, 0x01]) State.reset) (fun s =>
      decide (s.txReq = [(0, { frame := .buf .cfg, payload := [0xC0, 0x01] })])) = true := by decide

theorem test_E7_TX_SUBMIT_held :
    isHeld (.txSubmit 0 .diag []) (sending .body .diag [1] 0) = true ∧
      after (exec (.txSubmit 0 .diag []) (sending .body .diag [1] 0)) = some (sending .body .diag [1] 0) := by decide

theorem test_trace2_TX_ACQUIRE :
    nextHas (exec (.txAcquire 0) { State.reset with
        txReq := [(0, { frame := .buf .cfg, payload := [0xC0, 0x01] })], txPos := 7 })
      (fun s => decide (s.txOwner = some 0) && decide (s.txPhase.code = 0b01) && decide (s.txPos = 0) &&
        decide (status s = 4)) = true := by decide

theorem test_E8_TX_ACQUIRE_held :
    isHeld (.txAcquire 1) (sending .body .diag [1] 0) = true ∧
      after (exec (.txAcquire 1) (sending .body .diag [1] 0)) = some (sending .body .diag [1] 0) := by decide

theorem test_E9_TX_ACQUIRE_held : isHeld (.txAcquire 0) State.reset = true := by decide

theorem test_trace3_ENC_MARK :
    txWord (sending .mark (.buf .cfg) [0xC0, 0x01] 0) = 0x0CC0 ∧
      nextHas (exec .txEmit (sending .mark (.buf .cfg) [0xC0, 0x01] 0)) (fun s => decide (s.wire = [0xA9]) &&
        decide (s.txPhase.code = 0b10)) = true := by decide

theorem test_trace4_ENC_BODY_END :
    txWord (sending .body (.buf .cfg) [0xC0, 0x01] 0) = 0x14C0 ∧
      nextHas (exec .txEmit (sending .body (.buf .cfg) [0xC0, 0x01] 0)) (fun s => decide (s.wire = [0xDB]) &&
        decide (s.txPhase.code = 0b11) && decide (s.txSubb = 0xDC) && decide (s.txPos = 1)) = true := by decide

theorem test_trace5_ENC_SUB :
    txWord (sending .sub (.buf .cfg) [0xC0, 0x01] 1) = 0x1C01 ∧
      nextHas (exec .txEmit { sending .sub (.buf .cfg) [0xC0, 0x01] 1 with txSubb := 0xDC })
        (fun s => decide (s.wire = [0xDC]) && decide (s.txPhase.code = 0b10) && decide (s.txPos = 1)) = true := by
  decide

theorem test_trace6_ENC_BODY_LIT :
    txWord (sending .body (.buf .cfg) [0xC0, 0x01] 1) = 0x1401 ∧
      nextHas (exec .txEmit (sending .body (.buf .cfg) [0xC0, 0x01] 1)) (fun s => decide (s.wire = [0x01]) &&
        decide (s.txPos = 2)) = true := by decide

theorem test_trace7_ENC_CLOSE :
    txWord (sending .body (.buf .cfg) [0xC0, 0x01] 2) = 0x1500 ∧
      nextHas (exec .txEmit (sending .body (.buf .cfg) [0xC0, 0x01] 2)) (fun s => decide (s.wire = [0xC0]) &&
        decide (s.txPhase.code = 0b00) && decide (s.txOwner = none) && decide (s.txReq = []) &&
        decide (s.txDone = [0])) = true := by decide

theorem test_E3_ENC_BODY_ESC :
    txWord (sending .body (.buf .ip) [0xDB] 0) = 0x16DB ∧
      nextHas (exec .txEmit (sending .body (.buf .ip) [0xDB] 0)) (fun s => decide (s.wire = [0xDB]) &&
        decide (s.txSubb = 0xDD) && decide (s.txPhase.code = 0b11)) = true := by decide

theorem test_E6_ENC_IDLE :
    isHeld .txEmit State.reset = true ∧ after (exec .txEmit State.reset) = some State.reset := by decide

theorem test_E11_ENC_BADSTATE_MARKIP :
    nextHas (exec .txEmit { State.reset with txPhase := .mark, txType := some (.buf .ip) })
      (fun s => decide (s.faultCause = some .badTxstate) && decide (s.wire = [])) = true := by decide

theorem test_E12_ENC_BADSTATE_NOTYPE :
    nextHas (exec .txEmit { State.reset with txPhase := .body })
      (fun s => decide (s.faultCause = some .badTxstate) && decide (s.wire = [])) = true := by decide

/-- Encode(t, P) of V7. -/
theorem test_wireFrame :
    wireFrame Config.spec (.buf .ip) [0x45, 0xC0, 0xDB, 0x00] = [0x45, 0xDB, 0xDC, 0xDB, 0xDD, 0x00, 0xC0] ∧
      wireFrame Config.spec .diag [] = [0x0A, 0xC0] := by decide

/-! ## Placed words -/

/-- RX_PAY_ESC of a configuration frame, word 0x4DB, as the first step after reset. -/
theorem test_placed_RX_PAY_ESC :
    decodeTableWord 16 0x4DB = some (.rxPayEsc (.buf .cfg)) ∧
      nextHas (step (State.reset.withFetchWord 16 0x4DB)) (fun s => decide (s.dstate.code = 0b101)) = true := by decide

/-- ENC_CLOSE of an IP frame, word 0x1700, as the first step after reset. -/
theorem test_placed_ENC_CLOSE :
    decodeTableWord 16 0x1700 = some (.encClose (.buf .ip) 0x00) ∧
      nextHas (step (State.reset.withFetchWord 16 0x1700)) (fun s => decide (s.wire = [0xC0])) = true := by decide

/-- TX_EMIT, word 0x7, as the first step after reset: held (R182), so the step takes no word and nothing changes. -/
theorem test_placed_TX_EMIT :
    decodeTableWord 8 0x7 = some .txEmit ∧
      after (step (State.reset.withFetchWord 8 0x7)) = some (State.reset.withFetchWord 8 0x7) := by decide

/-! ## Held words and programs -/

/-- R9, R211: the TX_ACQUIRE of a producer without a request waits, and the RX presented after it is taken. -/
theorem test_step_passes_a_held_word :
    nextHas (step { State.reset with pending := [.port { op := 6 }, .port { op := 1, b := 0x0A }] }) (fun s =>
      decide (s.dstate = .pay .diag) && decide (s.pending = [.port { op := 6 }])) = true := by decide

/-- R9: the TX_SUBMIT presented after it enables the TX_ACQUIRE that waited, which the next step takes. -/
theorem test_step_takes_an_enabled_word :
    nextHas (step { State.reset with
        pending := [.port { op := 6 }, .port { op := 2, t := 2 }]
        txReq := [(0, { frame := .diag, payload := [] })] })
      (fun s => decide (s.txOwner = some 0) && decide (s.pending = [.port { op := 2, t := 2 }])) = true := by decide

/-- R86: `send` on the free lock is done after 2 + |Encode(IP, [0x45])| operations. -/
theorem test_R86_send :
    finishedHas (runProgram 4 [.send 0 (.buf .ip) [0x45]] State.reset) (fun s => decide (s.wire = [0x45, 0xC0]) &&
      decide (s.txDone = [0]) && decide (s.txPhase = .idle)) = true := by decide

/-- R86: `send` of producer 1 is held at `tx_acquire` while producer 0 owns the lock, and emits none of its bytes. -/
theorem test_R86_send_held :
    runProgram 9 [.send 1 (.buf .ip) [0x45]] (sending .body .diag [1] 0) =
      .held [.op (.txAcquire 1), .emitFrame] { sending .body .diag [1] 0 with
        txReq := [(0, { frame := .diag, payload := [1] }), (1, { frame := .buf .ip, payload := [0x45] })] } := by decide

/-- R86: `emit_frame` in the middle of a frame emits what is left of it, and nothing in TX idle. -/
theorem test_R86_emitFrame :
    finishedHas (runProgram 9 [.emitFrame, .rxs [0xC0]] busyBlock) (fun s =>
        decide (s.wire = [0xA9, 0xDB, 0xDC, 0x01, 0xC0]) && decide (s.dstate = .idle)) = true ∧
      runProgram 9 [.emitFrame] State.reset = .finished State.reset := by decide

/-! ## A state and operands for the hypotheses of each statement -/

theorem test_busyBlock_rx : RxInv busyBlock where
  noEvents := fun w hw => ⟨{ op := 7 }, by simpa [busyBlock] using hw⟩
  openFrame := by decide
  legalState := by decide
  diagErrors := by decide
  busyNoOverflow := by decide

theorem test_busyBlock_cfg : SlotInv .cfg busyBlock where
  bufWf := by decide
  bufBound := by decide
  idxLe := by decide
  lenLe := by decide
  delivered := by decide
  storing := fun _ _ => ⟨rfl, by decide⟩
  errClean := by decide

theorem test_busyBlock_ip : SlotInv .ip busyBlock where
  bufWf := by decide
  bufBound := by decide
  idxLe := by decide
  lenLe := by decide
  delivered := fun _ => by decide
  storing := by decide
  errClean := by decide

theorem test_busyBlock_tx : TxInv busyBlock where
  ownerIdle := by decide
  posLe := by decide
  ownerRequest := fun p hp =>
    ⟨{ frame := .buf .cfg, payload := [0xC0, 0x01] }, by
      have : p = 0 := by simpa [busyBlock, eq_comm] using hp
      subst this
      decide⟩
  markStart := by decide
  subLast := fun _ => ⟨0xC0, by decide⟩
  reqWf := by decide
  reqBound := by decide

/-- The block in the middle of everything is a state of the invariant. -/
theorem test_busyBlock_inv : Inv busyBlock where
  confWf := by decide
  rx := test_busyBlock_rx
  cfg := test_busyBlock_cfg
  ip := test_busyBlock_ip
  tx := test_busyBlock_tx
  onlyConsumerFault := by decide

theorem test_reset_rx : RxInv State.reset where
  noEvents := fun _ hw => nomatch hw
  openFrame := by decide
  legalState := by decide
  diagErrors := by decide
  busyNoOverflow := by decide

theorem test_reset_tx : TxInv State.reset where
  ownerIdle := by decide
  posLe := by decide
  ownerRequest := fun _ hp => nomatch hp
  markStart := by decide
  subLast := by decide
  reqWf := by decide
  reqBound := by decide

theorem test_witness_DecodeInvertsEncode :
    Config.spec.wf = true ∧ (Instr.rxPayLit (.buf .cfg) 0x01).wf Config.spec = true ∧
      (Instr.txSubmit 1 (.buf .ip) [0xC0]).wf Config.spec = true := by decide

/-- With nothing before the word, and with a held word before it. -/
theorem test_witness_StepRunsThePresentedInstruction :
    (busyBlock.conf.wf = true ∧ busyBlock.fault = false ∧ busyBlock.pending = [] ++ .port { op := 7 } :: [] ∧
      spelt (Presented.port { op := 7 }).code = some .txEmit ∧ isHeld .txEmit busyBlock = false) ∧
      (let s : State := { busyBlock with pending := [.port { op := 6, p := 1 }, .port { op := 1, b := 3 }] }
       spelt (Presented.port { op := 6, p := 1 }).code = some (.txAcquire 1) ∧ isHeld (.txAcquire 1) s = true ∧
         spelt (Presented.port { op := 1, b := 3 }).code = some (.rx 3) ∧ isHeld (.rx 3) s = false) := by decide

/-- Nothing presented, and a held word presented. -/
theorem test_witness_StepWithNothingPresentedWaits :
    (State.reset.conf.wf = true ∧ State.reset.fault = false ∧ State.reset.pending = []) ∧
      (spelt (Presented.port { op := 7 }).code = some .txEmit ∧
        isHeld .txEmit { State.reset with pending := [.port { op := 7 }] } = true) := by decide

theorem test_witness_FaultEntryIsFinal :
    (busyBlock.fault = false ∧ busyBlock.hopen ≠ none ∧ (busyBlock.slot .cfg).ready = false) ∧
      (decoding .unused).dstate = .unused ∧
      (({ State.reset with txPhase := .body } : State).txPhase = .body ∧ State.reset.txType = none) ∧
      ((busyBlock.raiseFault .protocol).fault = true ∧ (busyBlock.raiseFault .protocol).conf.wf = true ∧
        (Instr.rx 0x45).wf busyBlock.conf = true) := by decide

/-- Each clause at the ends of its range: the reserved codes, the illegal types, the first and last reserved register, the
first absent producer, and both reserved fields of an event word, each as the oldest presented word. -/
theorem test_witness_ReservedAndIllegalWordsAreRefused :
    refusal (step (State.reset.present (.port { op := 0 }))) = some (.reservedOperation 0) ∧
      refusal (step (State.reset.present (.port { op := 8 }))) = some (.reservedOperation 8) ∧
      refusal (step (State.reset.present (.port { op := 15 }))) = some (.reservedOperation 15) ∧
      refusal (step (State.reset.present (.port { op := 2, t := 1 }))) = some (.illegalOperand (.illegalFrameType 1)) ∧
      refusal (step (State.reset.present (.port { op := 3, t := 0 }))) = some (.illegalOperand (.illegalFrameType 0)) ∧
      refusal (step (State.reset.present (.port { op := 4, n := 5 }))) = some (.illegalOperand (.reservedRegister 5)) ∧
      refusal (step (State.reset.present (.port { op := 4, n := 255 }))) =
        some (.illegalOperand (.reservedRegister 255)) ∧
      refusal (step (State.reset.present (.port { op := 5, t := 0 }))) = some (.illegalOperand (.illegalFrameType 0)) ∧
      refusal (step (State.reset.present (.port { op := 5, t := 1, p := 2 }))) =
        some (.illegalOperand (.noSuchProducer 2)) ∧
      refusal (step (State.reset.present (.port { op := 6, p := 2 }))) = some (.illegalOperand (.noSuchProducer 2)) ∧
      nextHas (step (State.reset.present (.event 0x0200))) (fun s => decide (s.faultCause = some .protocol)) = true ∧
      nextHas (step (State.reset.present (.event 0x0800))) (fun s => decide (s.faultCause = some .protocol)) = true := by
  decide

theorem test_witness_IllFormedConfigurationIsRefused :
    (State.constructed { Config.spec with escEnd := 0xC0 }).conf.wf = false := by decide

theorem test_witness_StepKeepsTheInvariant : Inv busyBlock ∧ (after (step busyBlock)).isSome = true :=
  ⟨test_busyBlock_inv, by decide⟩

theorem test_witness_StepKeepsTheConfiguration : (after (step busyBlock)).isSome = true := by decide

theorem test_witness_IdleDelimiterHasNoEffect :
    State.reset.fault = false ∧ State.reset.dstate = .idle ∧ State.reset.hopen = State.reset.dstate.frame ∧
      State.reset.conf.wf = true ∧ (0xC0 : Byte) = State.reset.conf.endByte := by decide

/-- Free and undrained buffer, closed and open frame; the open frame in IDLE is a state no run reaches. -/
theorem test_witness_MarkerOpensItsFrame :
    (endOfV1.fault = false ∧ endOfV1.dstate = .idle ∧ endOfV1.conf.wf = true ∧ endOfV1.hopen = none ∧
        endOfV1.cfgSlot.ready = true ∧ State.reset.cfgSlot.ready = false) ∧
      (({ endOfV1 with hopen := some .diag } : State).hopen ≠ none ∧
        ({ endOfV1 with hopen := some .diag } : State).dstate = .idle) := by decide

theorem test_witness_OtherIdleByteOpensAnIpFrame :
    State.reset.fault = false ∧ State.reset.dstate = .idle ∧ State.reset.conf.wf = true ∧
      State.reset.conf.isIdleOther 0xDB = true ∧ State.reset.hopen = none ∧
      ({ State.reset with hopen := some .diag } : State).hopen ≠ none := by decide

theorem test_witness_EscapeIntroducerEntersTheEscapedState :
    busyBlock.fault = false ∧ busyBlock.dstate = .pay (.buf .cfg) := by decide

theorem test_witness_DelimiterEndsTheFrame :
    busyBlock.fault = false ∧ busyBlock.conf.wf = true ∧ busyBlock.dstate = .pay (.buf .cfg) ∧
      busyBlock.hopen = some (.buf .cfg) ∧ busyBlock.hopen ≠ some .diag ∧
      busyBlock.hopen = busyBlock.dstate.frame := by decide

theorem test_witness_PayloadByteIsDelivered :
    (busyBlock.dstate = .pay (.buf .cfg) ∧ busyBlock.conf.isLiteral 0xA9 = true) ∧
      ((decoding (.esc (.buf .ip))).fault = false ∧ (decoding (.esc (.buf .ip))).conf.wf = true ∧
        (decoding (.esc (.buf .ip))).dstate = .esc (.buf .ip) ∧
        (decoding (.esc (.buf .ip))).hopen = (decoding (.esc (.buf .ip))).dstate.frame ∧
        (decoding (.esc (.buf .ip))).conf.isEscapeViolation 0xC0 = true) ∧
      (decoding (.esc (.buf .ip))).hopen ≠ some .diag := by decide

theorem test_witness_DecoderFollowsTheTransitionTable :
    ((decoding (.esc .diag)).fault = false ∧ (decoding (.esc .diag)).dstate ≠ .unused ∧
        (decoding (.esc .diag)).hopen = (decoding (.esc .diag)).dstate.frame) ∧
      ((decoding (.esc .diag)).dstate = .esc .diag ∧ (decoding (.esc .diag)).conf.isEscapeViolation 0xDB = true) := by
  decide

/-- No event in IDLE, none in a payload state, two in IDLE, and one. -/
theorem test_witness_EventsPerByte :
    (State.reset.fault = false ∧ State.reset.conf.wf = true ∧ State.reset.dstate = .idle ∧
        State.reset.hopen = State.reset.dstate.frame) ∧
      (busyBlock.dstate = .pay (.buf .cfg) ∧ busyBlock.hopen = busyBlock.dstate.frame) ∧
      State.reset.conf.isIdleOther 0xDB = true ∧
      (¬ (State.reset.dstate = .idle ∧
          ((0x0A : Byte) = State.reset.conf.endByte ∨ State.reset.conf.isIdleOther 0x0A = true)) ∧
        (0x0A : Byte) ≠ State.reset.conf.escByte) := by decide

theorem test_witness_DelimiterResynchronises :
    (busyBlock.fault = false ∧ busyBlock.conf.wf = true ∧ busyBlock.hopen = busyBlock.dstate.frame ∧
        busyBlock.dstate = .pay (.buf .cfg)) ∧
      ((decoding (.esc (.buf .ip))).fault = false ∧ (decoding (.esc (.buf .ip))).conf.wf = true ∧
        (decoding (.esc (.buf .ip))).hopen = (decoding (.esc (.buf .ip))).dstate.frame ∧
        (decoding (.esc (.buf .ip))).dstate = .esc (.buf .ip)) := by decide

theorem test_witness_UnusedDecoderStateFaults :
    (decoding .unused).fault = false ∧ (decoding .unused).dstate = .unused := by decide

theorem test_witness_BeginEventOpensAFrame : endOfV1.fault = false ∧ endOfV1.hopen = none := by decide

theorem test_witness_DiagnosticByteGoesToTheSink :
    (decoding (.pay .diag)).fault = false ∧ (decoding (.pay .diag)).hopen = some .diag := by decide

/-- A busy frame, the last free cell, and the first offset that is none. -/
theorem test_witness_BufferedByteIsStoredOrOverflows :
    ({ busyBlock with ferr := .onlyBusy } : State).ferr.busy = true ∧ busyBlock.hopen = some (.buf .cfg) ∧
      busyBlock.ferr.busy = false ∧
      (({ busyBlock with cfgSlot := holding [] 7 0 false } : State).slot .cfg).idx.toNat + 1 =
        cap busyBlock.conf .cfg ∧
      (({ busyBlock with cfgSlot := holding [] 8 0 false } : State).slot .cfg).idx.toNat =
        cap busyBlock.conf .cfg := by decide

theorem test_witness_EndEventDeliversOrDiscards :
    (decoding (.pay .diag)).hopen = some .diag ∧
      (busyBlock.hopen = some (.buf .cfg) ∧ busyBlock.ferr.busy = false ∧ busyBlock.ferr.code = 0#3) ∧
      ({ ErrorSet.empty with esc := true }.code ≠ 0#3 ∧ busyBlock.conf.deliverErrored = false) ∧
      ErrorSet.onlyBusy.busy = true := by decide

theorem test_witness_EventOutOfSequenceRaisesProtocol :
    busyBlock.fault = false ∧ busyBlock.hopen ≠ none ∧ busyBlock.hopen ≠ some (.buf .ip) ∧
      State.reset.hopen ≠ some .diag := by decide

/-- An instruction that stores at cell 2 and leaves cell 1. -/
theorem test_witness_BytesOutsideTheStoredCellStay :
    (after (exec (.rx 0x03) busyBlock)).isSome = true ∧ storesAt (.rx 0x03) busyBlock = some (.cfg, 2) ∧
      storesAt (.rx 0x03) busyBlock ≠ some (.cfg, 1) := by decide

theorem test_witness_StoredCellHoldsTheDeliveredByte :
    (busyBlock.hopen = some (.buf .cfg) ∧ writeStoresAt (.buf .cfg) busyBlock = some (.cfg, 2)) ∧
      (State.reset.hopen = none ∧ storesAt (.rxIdleOther 0x45) State.reset = some (.ip, 0)) := by decide

theorem test_witness_OtherTypesRegistersStay :
    FrameType.buf .cfg ≠ .buf .ip ∧ (after (exec (.rxPayLit (.buf .cfg) 0x03) busyBlock)).isSome = true ∧
      (after (exec (.consume .cfg) busyBlock)).isSome = true := by decide

theorem test_witness_ThePathsShareNoState :
    (Instr.rx 0x03).drivenBy .byteSource = true ∧ (after (exec (.rx 0x03) busyBlock)).isSome = true ∧
      (Instr.rdreg 0).drivenBy (.consumer .ip) = true ∧
      (Instr.txEmit).drivenBy .byteSink = true ∧ (after (exec .txEmit busyBlock)).isSome = true ∧
      (sending .sub (.buf .cfg) [0xC0] 1).conf = State.reset.conf := by decide

theorem test_witness_ConsumeClearsReady :
    busyBlock.fault = false ∧ (busyBlock.slot .ip).ready = true ∧ (busyBlock.slot .cfg).ready = false := by decide

/-- The last index of the frame, the first past it, and, in a state no run reaches, the first index past the capacity. -/
theorem test_witness_RdbufReadsTheDeliveredFrame :
    ((busyBlock.slot .ip).ready = true ∧ (1 : Word).toNat < (busyBlock.slot .ip).len.toNat ∧
        (1 : Word).toNat < cap busyBlock.conf .ip ∧ (busyBlock.slot .ip).buf.read 1 = some 0x01) ∧
      (busyBlock.slot .ip).len.toNat ≤ (2 : Word).toNat ∧
      (let s : State := { busyBlock with ipSlot := holding [] 8 9 true }
       (s.slot .ip).ready = true ∧ (8 : Word).toNat < (s.slot .ip).len.toNat ∧ cap s.conf .ip ≤ (8 : Word).toNat) := by
  decide

theorem test_witness_DeliveredBytesAreReadable :
    Inv busyBlock ∧ busyBlock.fault = false ∧ (busyBlock.slot .ip).ready = true ∧
      (1 : Word).toNat < (busyBlock.slot .ip).len.toNat := ⟨test_busyBlock_inv, by decide⟩

theorem test_witness_RdregReadsItsRegister : busyBlock.fault = false ∧ 5 ≤ (5 : Byte).toNat := by decide

theorem test_witness_StatusFieldsAreCopies : (busyBlock.raiseFault .consumerContract).fault = true := by decide

theorem test_witness_ReadsHaveNoSideEffect :
    nextHas (exec (.rdbuf .ip 1) busyBlock) (fun s => !s.fault) = true ∧
      nextHas (exec (.rdreg 4) busyBlock) (fun s => !s.fault) = true := by decide

theorem test_witness_SubmitRecordsTheRequest :
    (1 < endOfV1.conf.nprod ∧ endOfV1.fault = false ∧ Store.read endOfV1.txReq 1 = none) ∧
      (1 < busyBlock.conf.nprod ∧ Store.read busyBlock.txReq 1 ≠ none) ∧ endOfV1.conf.nprod ≤ 2 := by decide

theorem test_witness_AcquireGrantsTheLock :
    (let s : State := { State.reset with txReq := [(0, { frame := .diag, payload := [] }),
       (1, { frame := .buf .ip, payload := [1] })] }
     s.fault = false ∧ 1 < s.conf.nprod ∧ s.txOwner = none ∧
       Store.read s.txReq 1 = some { frame := .buf .ip, payload := [1] }) ∧
      busyBlock.txOwner ≠ none ∧ Store.read State.reset.txReq 0 = none := by decide

theorem test_witness_EmitMarkerAndSubstitute :
    (busyBlock.fault = false ∧ busyBlock.txPhase = .sub ∧ busyBlock.txType = some (.buf .cfg)) ∧
      ((sending .mark .diag [] 0).txPhase = .mark ∧ (sending .mark .diag [] 0).txType = some .diag) := by decide

/-- The first and the last byte of a payload, one of each class. -/
theorem test_witness_EmitBodyByte :
    (let s := sending .body (.buf .ip) [0xC0, 0xDB, 0x45] 0
     s.conf.wf = true ∧ s.txPhase = .body ∧ s.txType = some (.buf .ip) ∧ s.txPayload[s.txPos]? = some s.conf.endByte) ∧
      (sending .body (.buf .ip) [0xC0, 0xDB, 0x45] 1).txPayload[1]? = some Config.spec.escByte ∧
      ((sending .body (.buf .ip) [0xC0, 0xDB, 0x45] 2).txPayload[2]? = some 0x45 ∧
        Config.spec.isLiteral 0x45 = true) := by decide

theorem test_witness_EmitClosingDelimiter :
    (let s := sending .body .diag [0xC0] 1
     s.fault = false ∧ s.txOwner = some 0 ∧ s.txPhase = .body ∧ s.txType = some .diag ∧
       s.txPos = s.txPayload.length) ∧
      State.reset.txOwner = none := by decide

theorem test_witness_EmitInIdleIsHeld : State.reset.fault = false ∧ State.reset.txPhase = .idle := by decide

theorem test_witness_BadSequencerStateFaults :
    (({ State.reset with txPhase := .sub } : State).txPhase ≠ .idle ∧ State.reset.txType = none) ∧
      ((sending .mark (.buf .ip) [] 0).txPhase = .mark ∧ (sending .mark (.buf .ip) [] 0).txType = some (.buf .ip)) := by
  decide

/-- A held operation, each operation enabled and held, and a `send` behind another producer's lock. -/
theorem test_witness_HeldOperationChangesNothing :
    isHeld (.txAcquire 1) busyBlock = true ∧
      (busyBlock.fault = false ∧ 1 < busyBlock.conf.nprod ∧ busyBlock.txOwner ≠ none) ∧
      ((sending .body .diag [1] 0).fault = false ∧ 1 < (sending .body .diag [1] 0).conf.nprod ∧
        (sending .body .diag [1] 0).txOwner ≠ none ∧ Store.read (sending .body .diag [1] 0).txReq 1 = none) := by
  decide

/-- An operation of another agent while the frame is in flight, and the one that completes it. -/
theorem test_witness_FrameInFlightRunsToCompletion :
    (busyBlock.txOwner = some 0 ∧ (after (exec (.rx 0x03) busyBlock)).isSome = true) ∧
      ((sending .body .diag [] 0).txOwner = some 0 ∧ (after (exec .txEmit (sending .body .diag [] 0))).isSome = true) := by
  decide

theorem test_witness_FrameIsEmittedWhole :
    (let s : State := { State.reset with txReq := [(1, { frame := .buf .cfg, payload := [0xC0] })] }
     s.fault = false ∧ 1 < s.conf.nprod ∧ s.txOwner = none ∧
       Store.read s.txReq 1 = some { frame := .buf .cfg, payload := [0xC0] } ∧
       4 ≤ (wireFrame s.conf (.buf .cfg) [0xC0]).length) ∧
      (State.reset.fault = false ∧ 1 < State.reset.conf.nprod ∧ State.reset.txOwner = none ∧
        Store.read State.reset.txReq 1 = none) := by decide

theorem test_witness_WireIsWholeFrames :
    Instr.txEmit.isPort = true ∧ TxInv busyBlock ∧ WireHolds [] busyBlock ∧
      (after (exec .txEmit busyBlock)).isSome = true :=
  ⟨rfl, test_busyBlock_tx, by unfold WireHolds; decide, by decide⟩

/-- A payload of exactly the capacity. -/
theorem test_witness_RoundTrip :
    State.reset.conf.wf = true ∧ State.reset.fault = false ∧ State.reset.dstate = .idle ∧ State.reset.hopen = none ∧
      [0x45, 1, 2, 3, 4, 5, 6, (7 : Byte)].length ≤ cap State.reset.conf .ip ∧ (State.reset.slot .ip).ready = false ∧
      State.reset.conf.isIdleOther 0x45 = true ∧ (0x45 : Byte) ≠ State.reset.conf.escByte := by decide

/-- A consumer's drain and a request between the bytes of a frame. -/
theorem test_witness_RoundTripUnderInterleaving :
    (let ops : List Instr := [.rx 0xA9, .txSubmit 1 .diag [], .consume .ip, .rx 0x01, .rx 0xC0]
     (∀ i ∈ ops, i.isPort = true) ∧ rxBytes ops = wireFrame State.reset.conf (.buf .cfg) [0x01] ∧
       ops.getLast? = some (.rx State.reset.conf.endByte) ∧
       nextHas (execAll ops State.reset) (fun s => !s.fault) = true) ∧
      [(0x01 : Byte)].length ≤ cap State.reset.conf .cfg ∧ (State.reset.slot .cfg).ready = false := by decide

theorem test_witness_IpFirstByteCollision :
    Config.spec.wf = true ∧ State.reset.conf = Config.spec ∧ State.reset.fault = false ∧
      State.reset.dstate = .idle ∧ State.reset.hopen = none ∧
      ((0xC0 : Byte) = Config.spec.endByte ∨ (0xC0 : Byte) = Config.spec.escByte) ∧
      ((0xDB : Byte) = Config.spec.endByte ∨ (0xDB : Byte) = Config.spec.escByte) := by decide

theorem test_witness_DelimiterOnlyClosesTheFrame : Config.spec.wf = true := by decide

theorem test_witness_InvariantAtConstruction : Config.spec.wf = true := by decide

/-- The event stream of the block in the middle of everything has the form of R114. -/
theorem test_busyBlock_events : EvShape busyBlock.ev busyBlock.dstate.frame :=
  .wrote _ _ 0x02 (.wrote _ _ 0x01 (.opened _ _ (.closed _ _ .empty (.wrote _ _ 0x01 (.wrote _ _ 0x45 (.opened [] _
    .empty))))))

theorem test_witness_EventStreamIsSequenced :
    ((Instr.rx 0x03).isPort = true ∧ RxInv busyBlock ∧ EvShape busyBlock.ev busyBlock.dstate.frame ∧
        (after (exec (.rx 0x03) busyBlock)).isSome = true) ∧
      ((∀ i ∈ [Instr.rx 0x45, .consume .cfg, .rx 0xDB], i.isPort = true) ∧
        (after (execAll [.rx 0x45, .consume .cfg, .rx 0xDB] (State.constructed Config.spec))).isSome = true) :=
  ⟨⟨rfl, test_busyBlock_rx, test_busyBlock_events, by decide⟩, by decide, by decide⟩

theorem test_busyBlock_content : StoredContent .cfg busyBlock := fun _ _ => by decide

theorem test_witness_StoredContentIsKept :
    busyBlock.conf.wf = true ∧ (Instr.rx 0x03).isPort = true ∧ StoredContent .cfg busyBlock ∧
      (busyBlock.hopen = some (.buf .cfg) ∧ busyBlock.ferr.busy = false) ∧
      (after (exec (.rx 0x03) busyBlock)).isSome = true :=
  ⟨by decide, rfl, test_busyBlock_content, by decide, by decide⟩

theorem test_witness_DeliveredFrameIsThePayload :
    busyBlock.conf.wf = true ∧ busyBlock.fault = false ∧ busyBlock.dstate = .pay (.buf .cfg) ∧
      busyBlock.hopen = some (.buf .cfg) ∧ busyBlock.ferr.busy = false ∧ busyBlock.ferr = .empty ∧
      StoredContent .cfg busyBlock :=
  ⟨by decide, rfl, rfl, rfl, rfl, rfl, test_busyBlock_content⟩

theorem test_witness_UndrainedFrameStaysIntact :
    Inv busyBlock ∧ (busyBlock.slot .ip).ready = true ∧ (after (exec (.rx 0x03) busyBlock)).isSome = true ∧
      (after (exec (.consume .ip) busyBlock)).isSome = true :=
  ⟨test_busyBlock_inv, rfl, by decide, by decide⟩

/-- The block in the middle of everything, the block at reset, and a program: a diagnostic frame received and an IP frame
sent, from construction to a quiescent end. -/
theorem test_witness_QuiescentEndHoldsWholeFrames :
    (TxInv busyBlock ∧ RxInv busyBlock ∧ WireHolds [] busyBlock ∧ EvShape busyBlock.ev busyBlock.dstate.frame ∧
        (after (exec .txEmit busyBlock)).isSome = true) ∧
      (TxInv State.reset ∧ RxInv State.reset ∧ WireHolds [] State.reset ∧
        EvShape State.reset.ev State.reset.dstate.frame ∧ Quiescent State.reset) ∧
      ∃ s', EndsCorrectly Config.spec
        [.rx 0x0A, .txSubmit 1 (.buf .ip) [], .rx 0xC0, .txAcquire 1, .txEmit] s' ∧ Quiescent s' := by
  refine ⟨⟨test_busyBlock_tx, test_busyBlock_rx, by unfold WireHolds; decide, test_busyBlock_events, by decide⟩,
    ⟨test_reset_tx, test_reset_rx, by unfold WireHolds; decide, .empty, rfl, rfl, rfl, fun _ => rfl⟩, _, ⟨⟨rfl, rfl, rfl, _, rfl, rfl, rfl, rfl, _, rfl, rfl, rfl, rfl, _, rfl, rfl, rfl, rfl, _, rfl, rfl, rfl, rfl,
    _, rfl, rfl⟩, rfl⟩, rfl, rfl, rfl, fun _ => rfl⟩

end Sys2Proof.Tests
end

section
/-! The layout of `STATUS` (10_state.md R37): each of its fields read back, lowest first, and O36 from them. -/

namespace Sys2Proof

/-! ## Reading a field -/

/-- A field of the high part of a concatenation is that field of the whole, past the low part. -/
theorem extract_append_of_high {n m : Nat} {a : BitVec n} {b : BitVec m} {i k : Nat} {field : BitVec k}
    (h : a.extractLsb' i k = field) : (a ++ b).extractLsb' (i + m) k = field := by
  rw [Nat.add_comm i m, extract_above, h]

theorem getLsbD_of_field {n k : Nat} {w : BitVec n} {i : Nat} {field : BitVec k}
    (h : w.extractLsb' i k = field) (j : Nat) (hj : j < k) : w.getLsbD (i + j) = field.getLsbD j := by
  simp [← h, hj]

theorem getLsbD_of_bit_field {n : Nat} {w : BitVec n} {i : Nat} {b : Bool}
    (h : w.extractLsb' i 1 = BitVec.ofBool b) : w.getLsbD i = b :=
  (getLsbD_of_field h 0 (by decide)).trans (by simp)

/-! ## The bits of an error set (R23) -/

theorem ErrorSet.code_getLsbD_zero (e : ErrorSet) : e.code.getLsbD 0 = e.esc :=
  getLsbD_of_bit_field (extract_low _ _)

theorem ErrorSet.code_getLsbD_one (e : ErrorSet) : e.code.getLsbD 1 = e.ovf :=
  getLsbD_of_bit_field (extract_append_of_high (extract_low _ _))

theorem ErrorSet.code_getLsbD_two (e : ErrorSet) : e.code.getLsbD 2 = e.busy :=
  getLsbD_of_bit_field (extract_append_of_high (extract_high _ _))

/-- The three bits of a field that holds an error set. -/
theorem getLsbD_of_error_field {n : Nat} {w : BitVec n} {i : Nat} {e : ErrorSet}
    (h : w.extractLsb' i 3 = e.code) :
    w.getLsbD i = e.esc ∧ w.getLsbD (i + 1) = e.ovf ∧ w.getLsbD (i + 2) = e.busy :=
  ⟨(getLsbD_of_field h 0 (by decide)).trans e.code_getLsbD_zero,
    (getLsbD_of_field h 1 (by decide)).trans e.code_getLsbD_one,
    (getLsbD_of_field h 2 (by decide)).trans e.code_getLsbD_two⟩

end Sys2Proof

namespace Sys2Proof.Machine

/-! ## The fields of `STATUS`: the ready flags, the transmit lock, the decoder state and the open type -/

theorem status_cfgReady (s : State) : (status s).getLsbD 0 = s.cfgSlot.ready :=
  getLsbD_of_bit_field (extract_low _ _)

theorem status_ipReady (s : State) : (status s).getLsbD 1 = s.ipSlot.ready :=
  getLsbD_of_bit_field (extract_append_of_high (extract_low _ _))

theorem status_txBusy (s : State) : (status s).getLsbD 2 = s.txOwner.isSome :=
  getLsbD_of_bit_field (extract_append_of_high (extract_append_of_high (extract_low _ _)))

/-- Above the three flags stand the decoder state and what is above it. -/
theorem status_of_above_flags {s : State} {i k : Nat} {field : BitVec k}
    (h : (0#15 ++ s.ipSlot.err.code ++ s.cfgSlot.err.code ++ s.ferr.code ++ frameCode s.hopen
      ++ s.dstate.code).extractLsb' i k = field) : (status s).extractLsb' (i + 3) k = field :=
  extract_append_of_high (i := i + 2) (extract_append_of_high (i := i + 1) (extract_append_of_high h))

theorem status_dstate (s : State) : (status s).extractLsb' 3 3 = s.dstate.code :=
  status_of_above_flags (extract_low _ _)

theorem status_hopen (s : State) : (status s).extractLsb' 6 2 = frameCode s.hopen :=
  status_of_above_flags (extract_append_of_high (extract_low _ _))

/-! ## The fields of `STATUS`: the error sets and the zeros above them -/

/-- From bit 8 up stand the three error sets below fifteen zeros. -/
theorem status_of_errors {s : State} {i k : Nat} {field : BitVec k}
    (h : (0#15 ++ s.ipSlot.err.code ++ s.cfgSlot.err.code ++ s.ferr.code).extractLsb' i k = field) :
    (status s).extractLsb' (i + 8) k = field :=
  status_of_above_flags (i := i + 5) (extract_append_of_high (i := i + 2) (extract_append_of_high h))

theorem status_ferr (s : State) : (status s).extractLsb' 8 3 = s.ferr.code :=
  status_of_errors (extract_low _ _)

theorem status_cfgErr (s : State) : (status s).extractLsb' 11 3 = s.cfgSlot.err.code :=
  status_of_errors (extract_append_of_high (extract_low _ _))

theorem status_ipErr (s : State) : (status s).extractLsb' 14 3 = s.ipSlot.err.code :=
  status_of_errors (extract_append_of_high (extract_append_of_high (extract_low _ _)))

theorem status_zeros (s : State) : (status s).extractLsb' 17 15 = 0#15 :=
  status_of_errors (extract_append_of_high (extract_append_of_high (extract_high _ _)))

/-! ## `STATUS` at construction, and `RDREG` under a fault -/

theorem status_constructed (c : Config) : status (State.constructed c) = 0#32 := by
  simp only [status, State.constructed]
  decide

/-- Under `FAULT = 1` a read of a register answers no next state, whether its number names one or not. -/
theorem exec_rdreg_halted {s : State} (h : s.fault = true) (n : Byte) (s' : State) :
    exec (.rdreg n) s ≠ .next s' := by
  intro hnext
  change execRdreg n s = .next s' at hnext
  unfold execRdreg at hnext
  split at hnext
  · rw [whenEnabled_halted h] at hnext
    cases hnext
  · cases hnext

/-- Settles O36: each field of `STATUS` read back by its own lemma, the error sets by their three bits. -/
theorem statusFieldsAreCopies : Obligations.StatusFieldsAreCopies := by
  intro s
  obtain ⟨hEsc, hOvf, hBusy⟩ := getLsbD_of_error_field (status_ferr s)
  obtain ⟨hCfgEsc, hCfgOvf, hCfgBusy⟩ := getLsbD_of_error_field (status_cfgErr s)
  obtain ⟨hIpEsc, hIpOvf, hIpBusy⟩ := getLsbD_of_error_field (status_ipErr s)
  exact ⟨status_cfgReady s, status_ipReady s, status_txBusy s, status_dstate s, status_hopen s,
    hEsc, hOvf, hBusy, hCfgEsc, hCfgOvf, hCfgBusy, hIpEsc, hIpOvf, hIpBusy, status_zeros s,
    status_constructed, exec_rdreg_halted⟩

end Sys2Proof.Machine
end

section
/-! The decode, encode and event maps as tables (30_encoding.md R79, R80, R81): each printed row taken apart into the
fields of its format, the first row a word matches, and O3 from that. -/

namespace Sys2Proof

/-! ## A row field by field -/

theorem append_eq_append_iff {n m : Nat} {a x : BitVec n} {b y : BitVec m} : a ++ b = x ++ y ↔ a = x ∧ b = y := by
  constructor
  · intro h
    exact ⟨by rw [← extract_high a b, h, extract_high], by rw [← extract_low a b, h, extract_low]⟩
  · rintro ⟨rfl, rfl⟩
    rfl

namespace MapRow

/-- The field is left open. -/
def any (n : Nat) : MapRow n := ⟨0#n, 0#n⟩

/-- The field has one value. -/
def exactly {n : Nat} (v : BitVec n) : MapRow n := ⟨v, BitVec.allOnes n⟩

/-- A row over two fields, the higher one first. -/
def join {n m : Nat} (r : MapRow n) (q : MapRow m) : MapRow (n + m) := ⟨r.want ++ q.want, r.mask ++ q.mask⟩

/-- The word matches the row: `W & mask = match` (R79). -/
def accepts {n : Nat} (r : MapRow n) (w : BitVec n) : Bool := decide (w &&& r.mask = r.want)

@[simp] theorem any_accepts {n : Nat} (w : BitVec n) : (any n).accepts w = true := by simp [any, accepts]

@[simp] theorem exactly_accepts {n : Nat} (v w : BitVec n) : (exactly v).accepts w = decide (w = v) := by
  simp [exactly, accepts]

theorem join_accepts {n m : Nat} (r : MapRow n) (q : MapRow m) (a : BitVec n) (b : BitVec m) :
    (r.join q).accepts (a ++ b) = (r.accepts a && q.accepts b) := by
  simp only [accepts, join, Laws.RowBits.mask_fields, append_eq_append_iff, Bool.decide_and]

end MapRow

@[simp] theorem firstRow_nil {n : Nat} (w : BitVec n) : firstRow w [] = 0 := rfl

@[simp] theorem firstRow_cons {n : Nat} (w : BitVec n) (r : MapRow n) (rs : List (MapRow n)) :
    firstRow w (r :: rs) =
      if r.accepts w = true then 1 else if firstRow w rs = 0 then 0 else firstRow w rs + 1 := by
  simp only [firstRow, MapRow.accepts, decide_eq_true_eq]

open MapRow

/-! ## Type codes (R21) -/

@[simp] theorem frameCode_eq_zero {t : Option FrameType} : frameCode t = 0#2 ↔ t = none := by
  rcases t with _ | (_ | (_ | _)) <;> decide

@[simp] theorem frameCode_eq_one {t : Option FrameType} : frameCode t = 1#2 ↔ t = some .diag := by
  rcases t with _ | (_ | (_ | _)) <;> decide

@[simp] theorem frameCode_eq_three {t : Option FrameType} : frameCode t = 3#2 ↔ t = some (.buf .ip) := by
  rcases t with _ | (_ | (_ | _)) <;> decide

/-! ## The decode map (R79) -/

/-- `DSTATE[0]` (R21), the escaped bit. -/
@[simp] def DState.escaped : DState → Bool
  | .idle => false
  | .unused => true
  | .pay _ => false
  | .esc _ => true

theorem DState.code_fields (d : DState) : d.code = frameCode d.frame ++ BitVec.ofBool d.escaped := by cases d <;> rfl

theorem decRows_fields (c : Config) :
    decRows c =
      [((exactly 0#2).join (exactly 1#1)).join (any 8),
       ((exactly 0#2).join (exactly 0#1)).join (exactly c.endByte),
       ((exactly 0#2).join (exactly 0#1)).join (exactly c.diagMarker),
       ((exactly 0#2).join (exactly 0#1)).join (exactly c.cfgMarker),
       ((exactly 0#2).join (exactly 0#1)).join (any 8),
       ((any 2).join (exactly 0#1)).join (exactly c.escByte),
       ((any 2).join (exactly 0#1)).join (exactly c.endByte),
       ((any 2).join (exactly 0#1)).join (any 8),
       ((any 2).join (exactly 1#1)).join (exactly c.escEnd),
       ((any 2).join (exactly 1#1)).join (exactly c.escEsc),
       ((any 2).join (exactly 1#1)).join (any 8)] := by
  simp [decRows, join, any, exactly]

@[simp] theorem accepts_decWord (r : MapRow 2) (q : MapRow 1) (p : MapRow 8) (d : DState) (b : Byte) :
    ((r.join q).join p).accepts (decWord d b) =
      (r.accepts (frameCode d.frame) && q.accepts (BitVec.ofBool d.escaped) && p.accepts b) := by
  rw [← join_accepts, ← d.code_fields]
  exact join_accepts (r.join q) p d.code b

/-- The decoder state rules out the rows of the other states, and the byte selects among its own. -/
theorem firstRow_decWord (c : Config) (d : DState) (b : Byte) :
    firstRow (decWord d b) (decRows c) = (decodeDec c (decWord d b)).row := by
  simp only [decodeDec, decWord_state, decWord_byte, DState.ofCode_code, decRows_fields]
  cases d with
  | idle =>
    dsimp only
    split_ifs with hEnd hDiag hCfg <;> simp_all [DState.frame, DecAction.row]
  | unused => simp [DState.frame, DecAction.row]
  | pay t =>
    dsimp only
    split_ifs with hEsc hEnd <;> simp_all [DState.frame, DecAction.row]
  | esc t =>
    dsimp only
    split_ifs with hEnd hEsc <;> simp_all [DState.frame, DecAction.row]

/-- R79: the action a DEC word decodes to is that of the first row it matches. -/
theorem firstRow_decRows (c : Config) (w : BitVec 11) : firstRow w (decRows c) = (decodeDec c w).row := by
  rw [← decWord_fields w, firstRow_decWord]

/-! ## The encode map (R80) -/

theorem encRows_fields (c : Config) :
    encRows c =
      [(((exactly 0#2).join (any 2)).join (any 1)).join (any 8),
       (((any 2).join (exactly 0#2)).join (any 1)).join (any 8),
       (((exactly 1#2).join (exactly 3#2)).join (any 1)).join (any 8),
       (((exactly 1#2).join (any 2)).join (any 1)).join (any 8),
       (((exactly 3#2).join (any 2)).join (any 1)).join (any 8),
       (((exactly 2#2).join (any 2)).join (exactly 1#1)).join (any 8),
       (((exactly 2#2).join (any 2)).join (exactly 0#1)).join (exactly c.endByte),
       (((exactly 2#2).join (any 2)).join (exactly 0#1)).join (exactly c.escByte),
       (((exactly 2#2).join (any 2)).join (exactly 0#1)).join (any 8)] := by
  simp [encRows, join, any, exactly]

@[simp] theorem accepts_encWord (r q : MapRow 2) (p : MapRow 1) (o : MapRow 8) (ph : TxPhase) (t : Option FrameType)
    (a : Bool) (b : Byte) :
    (((r.join q).join p).join o).accepts (encWord ph t a b) =
      (r.accepts ph.code && q.accepts (frameCode t) && p.accepts (BitVec.ofBool a) && o.accepts b) := by
  rw [← join_accepts, ← join_accepts]
  exact join_accepts ((r.join q).join p) o (ph.code ++ frameCode t ++ BitVec.ofBool a) b

/-- The phase and the type rule rows out, and in phase BODY `a` and the byte select among the rest. -/
theorem firstRow_encWord (c : Config) (ph : TxPhase) (t : Option FrameType) (a : Bool) (b : Byte) :
    firstRow (encWord ph t a b) (encRows c) = (decodeEnc c (encWord ph t a b)).row := by
  simp only [decodeEnc, encWord_phase, encWord_type, encWord_exhausted, encWord_byte, TxPhase.ofCode_code,
    frameOfCode_frameCode, encRows_fields]
  cases ph with
  | idle => simp [TxPhase.code, EncAction.row]
  | mark =>
    cases t with
    | none => simp [TxPhase.code, EncAction.row]
    | some t => by_cases hIp : t = .buf .ip <;> simp [TxPhase.code, EncAction.row, hIp]
  | body =>
    cases t with
    | none => simp [TxPhase.code, EncAction.row]
    | some t =>
      dsimp only
      split_ifs with hExhausted hEnd hEsc <;> simp_all [TxPhase.code, EncAction.row]
  | sub => cases t <;> simp [TxPhase.code, EncAction.row]

/-- R80: the action an ENC word decodes to is that of the first row it matches. -/
theorem firstRow_encRows (c : Config) (w : BitVec 13) : firstRow w (encRows c) = (decodeEnc c w).row := by
  rw [← encWord_fields w, firstRow_encWord]

/-! ## The event map (R81) -/

/-- An EV word is laid out from its own fields. -/
theorem evWord_fields (w : BitVec 13) :
    evWord (w.extractLsb' 11 2) (frameOfCode (w.extractLsb' 9 2)) (w.extractLsb' 0 9) = w := by
  have high : w.extractLsb' 11 2 ++ w.extractLsb' 9 2 = w.extractLsb' 9 4 :=
    BitVec.extractLsb'_append_extractLsb'_eq_extractLsb' rfl
  have whole : w.extractLsb' 9 4 ++ w.extractLsb' 0 9 = w.extractLsb' 0 13 :=
    BitVec.extractLsb'_append_extractLsb'_eq_extractLsb' rfl
  rw [evWord, frameCode_frameOfCode]
  exact (congrArg (· ++ w.extractLsb' 0 9) high).trans (whole.trans (extract_all w))

/-- A type field with its higher bit set, which only the buffered types have (R21). -/
def MapRow.buffered : MapRow 2 := ⟨2#2, 2#2⟩

@[simp] theorem MapRow.buffered_accepts_none : buffered.accepts (frameCode none) = false := rfl

@[simp] theorem MapRow.buffered_accepts_diag : buffered.accepts (frameCode (some .diag)) = false := rfl

@[simp] theorem MapRow.buffered_accepts_buf (t : BufType) : buffered.accepts (frameCode (some (.buf t))) = true := by
  cases t <;> rfl

theorem evRows_fields :
    evRows =
      [((exactly 1#2).join (exactly 1#2)).join (any 9), ((exactly 1#2).join buffered).join (any 9),
       ((exactly 2#2).join (exactly 1#2)).join (any 9), ((exactly 2#2).join buffered).join (any 9),
       ((exactly 3#2).join (exactly 1#2)).join (any 9), ((exactly 3#2).join buffered).join (any 9)] := rfl

@[simp] theorem accepts_evWord (r q : MapRow 2) (p : MapRow 9) (k : BitVec 2) (t : Option FrameType) (d : BitVec 9) :
    ((r.join q).join p).accepts (evWord k t d) = (r.accepts k && q.accepts (frameCode t) && p.accepts d) := by
  rw [← join_accepts]
  exact join_accepts (r.join q) p (k ++ frameCode t) d

/-- The row of the event an EV word decodes to, and `0` where it is no event. -/
def eventRow (w : BitVec 13) : Nat := ((decodeEv w).toOption.map EvAction.row).getD 0

theorem firstRow_evWord (k : BitVec 2) (t : Option FrameType) (d : BitVec 9) :
    firstRow (evWord k t d) evRows = eventRow (evWord k t d) := by
  simp only [eventRow, decodeEv, evWord_kind, evWord_type, frameOfCode_frameCode, evRows_fields]
  rcases t with _ | (_ | t)
  · simp [Except.toOption]
  all_goals
    dsimp only
    split_ifs with hBegin hWrite hEnd <;> simp_all [Except.toOption, EvAction.row]

/-- R81, R82: the event an EV word decodes to is that of the first row it matches, and a word that is no event matches
none. -/
theorem firstRow_evRows (w : BitVec 13) : firstRow w evRows = eventRow w := by
  rw [← evWord_fields w, firstRow_evWord]

end Sys2Proof

namespace Sys2Proof.Machine

/-- Settles O3: `RX` and `TX_EMIT` perform their word's action, and each map's decoder answers the action of the first
row the word matches. -/
theorem decodersTakeTheFirstMatchingRow : Obligations.DecodersTakeTheFirstMatchingRow := by
  refine ⟨fun s b => exec_rx b s, exec_txEmit, firstRow_decRows, firstRow_encRows, fun w => ?_⟩
  rw [firstRow_evRows, eventRow]
  cases decodeEv w <;> rfl

end Sys2Proof.Machine
end

section
/-! The decoder in IDLE and at the end of a frame (40_decoder.md R101 to R106): the row an `RX` selects, what a begin
event does with no frame open, alone and followed by a first byte, and O13 to O17 from them. -/

namespace Sys2Proof.Machine

/-! ## The row an `RX` selects, by the decoder state (R79) -/

theorem exec_rx_of_idle {s : State} (h : s.dstate = .idle) (b : Byte) :
    exec (.rx b) s = exec
      (if b = s.conf.endByte then .rxIdleEnd else if b = s.conf.diagMarker then .rxIdleDiag
        else if b = s.conf.cfgMarker then .rxIdleCfg else .rxIdleOther b) s := by
  rw [exec_rx, decodeDec_rxWord, h]
  dsimp only
  split_ifs <;> rfl

theorem exec_rx_of_pay {s : State} {t : FrameType} (h : s.dstate = .pay t) (b : Byte) :
    exec (.rx b) s = exec
      (if b = s.conf.escByte then .rxPayEsc t else if b = s.conf.endByte then .rxPayEnd t else .rxPayLit t b) s := by
  rw [exec_rx, decodeDec_rxWord, h]
  dsimp only
  split_ifs <;> rfl

theorem exec_rx_diagMarker {s : State} (hc : s.conf.wf = true) (hd : s.dstate = .idle) :
    exec (.rx s.conf.diagMarker) s = exec .rxIdleDiag s := by
  rw [exec_rx_of_idle hd, if_neg (Config.wf_end_diag hc).symm, if_pos rfl]

theorem exec_rx_cfgMarker {s : State} (hc : s.conf.wf = true) (hd : s.dstate = .idle) :
    exec (.rx s.conf.cfgMarker) s = exec .rxIdleCfg s := by
  rw [exec_rx_of_idle hd, if_neg (Config.wf_end_cfg hc).symm, if_neg (Config.wf_diag_cfg hc).symm, if_pos rfl]

theorem exec_rx_idleOther {s : State} {b : Byte} (hd : s.dstate = .idle) (hb : s.conf.isIdleOther b = true) :
    exec (.rx b) s = exec (.rxIdleOther b) s := by
  obtain ⟨hEnd, hDiag, hCfg⟩ := Config.isIdleOther_iff.mp hb
  rw [exec_rx_of_idle hd, if_neg hEnd, if_neg hDiag, if_neg hCfg]

theorem exec_rx_payEnd {s : State} {t : FrameType} (hc : s.conf.wf = true) (hd : s.dstate = .pay t) :
    exec (.rx s.conf.endByte) s = exec (.rxPayEnd t) s := by
  rw [exec_rx_of_pay hd, if_neg (Config.wf_end_esc hc), if_pos rfl]

/-! ## What a row answers when no fault is recorded -/

theorem exec_rxIdleEnd {s : State} (h : s.fault = false) : exec .rxIdleEnd s = .next s :=
  (whenEnabled_running h _ : execRxIdleEnd s = _)

theorem exec_rxIdleDiag {s : State} (h : s.fault = false) :
    exec .rxIdleDiag s = .next (hBegin .diag { s with dstate := .pay .diag }) :=
  (whenEnabled_running h _ : execRxIdleDiag s = _)

theorem exec_rxIdleCfg {s : State} (h : s.fault = false) :
    exec .rxIdleCfg s = .next (hBegin (.buf .cfg) { s with dstate := .pay (.buf .cfg) }) :=
  (whenEnabled_running h _ : execRxIdleCfg s = _)

theorem exec_rxIdleOther {s : State} (h : s.fault = false) (b : Byte) :
    exec (.rxIdleOther b) s =
      .next ((hBegin (.buf .ip) { s with dstate := .pay (.buf .ip) }).andThen (hWrite (.buf .ip) b)) :=
  (whenEnabled_running h _ : execRxIdleOther b s = _)

theorem exec_rxPayEsc {s : State} (h : s.fault = false) (t : FrameType) :
    exec (.rxPayEsc t) s = .next { s with dstate := .esc t } :=
  (whenEnabled_running h _ : execRxPayEsc t s = _)

theorem exec_rxPayEnd {s : State} (h : s.fault = false) (t : FrameType) :
    exec (.rxPayEnd t) s = .next ((hEnd t s).andThen fun u => { u with dstate := .idle }) :=
  (whenEnabled_running h _ : execRxPayEnd t s = _)

theorem exec_endEvent {s : State} (h : s.fault = false) (t : FrameType) :
    exec (endEvent t) s = .next (hEnd t s) := by
  cases t <;> exact whenEnabled_running h _

/-! ## Opening and closing a frame -/

/-- A buffered frame begins (R133): only a free buffer's offset restarts. -/
theorem beginBuf_of_closed {t : BufType} {s : State} (h : s.hopen = none) :
    beginBuf t s =
      ({ s with
        hopen := some (.buf t), ferr := ferrAtBegin (s.slot t),
        ev := s.ev ++ [.beginFrame (.buf t)] } : State).setSlot t
        (if (s.slot t).ready then s.slot t else { s.slot t with idx := 0 }) := by
  cases hr : (s.slot t).ready
  · simp [beginBuf_of_free h hr, ferrAtBegin, hr]
  · rw [beginBuf_of_busy h hr, ferrAtBegin, if_pos hr, if_pos rfl]
    cases t <;> rfl

/-- The first byte of a busy frame is not stored. -/
theorem beginBuf_writeBuf_of_busy {t : BufType} {b : Byte} {s : State} (hf : s.fault = false) (h : s.hopen = none)
    (hr : (s.slot t).ready = true) :
    (beginBuf t s).andThen (writeBuf t b) =
      { s with
        hopen := some (.buf t), ferr := .onlyBusy,
        ev := s.ev ++ [.beginFrame (.buf t), .writeByte (.buf t) b] } := by
  rw [beginBuf_of_busy h hr, State.andThen_running (by simpa using hf), writeBuf_of_busy rfl rfl]
  simp [State.emitEv]

/-- The first byte of a frame that is not busy is stored at index 0, which every capacity has room for. -/
theorem beginBuf_writeBuf_of_free {t : BufType} {b : Byte} {s : State} (hf : s.fault = false) (h : s.hopen = none)
    (hr : (s.slot t).ready = false) (hc : 0 < cap s.conf t) :
    (beginBuf t s).andThen (writeBuf t b) =
      ({ s with
        hopen := some (.buf t), ferr := .empty,
        ev := s.ev ++ [.beginFrame (.buf t), .writeByte (.buf t) b] } : State).setSlot t
        { s.slot t with buf := (s.slot t).buf.write 0 b, idx := 1 } := by
  rw [beginBuf_of_free h hr, State.andThen_running (by simpa using hf),
    writeBuf_of_room (by simp) (by simp [ErrorSet.empty]) (by simpa using hc)]
  cases t <;> simp [State.appendByte, State.emitEv, State.setSlot, State.slot]

theorem hEnd_fault_of_open {t : FrameType} {s : State} (h : s.hopen = some t) : (hEnd t s).fault = s.fault := by
  obtain ⟨c, i, n, hs⟩ := hEnd_open h
  rw [hs]

/-! ## The obligations -/

/-- Settles O14: the markers differ from the delimiter and from each other, and a begin event writes what R132 and R133
say or, out of sequence, the fault alone. -/
theorem markerOpensItsFrame : Obligations.MarkerOpensItsFrame := by
  intro s hf hd hc
  refine ⟨exec_rx_diagMarker hc hd, exec_rx_cfgMarker hc hd, fun hClosed => ?_, fun hOpen => ?_⟩
  · rw [exec_rxIdleDiag hf, exec_rxIdleCfg hf]
    exact ⟨congrArg _ (beginDiag_of_closed hClosed), congrArg _ (beginBuf_of_closed hClosed)⟩
  · rw [exec_rxIdleDiag hf, exec_rxIdleCfg hf]
    exact ⟨congrArg _ (hBegin_of_open hOpen), congrArg _ (hBegin_of_open hOpen)⟩

/-- Settles O15: the begin event and the write of the first byte, split on whether the buffer holds an undrained
frame. -/
theorem otherIdleByteOpensAnIpFrame : Obligations.OtherIdleByteOpensAnIpFrame := by
  intro s b hf hd hc hb
  refine ⟨exec_rx_idleOther hd hb, fun hClosed => ?_, fun hOpen => ?_⟩
  · rw [exec_rxIdleOther hf]
    refine congrArg _ ?_
    cases hr : s.ipSlot.ready
    · exact beginBuf_writeBuf_of_free (s := { s with dstate := .pay (.buf .ip) }) hf hClosed hr (Config.wf_ipCap hc).1
    · exact beginBuf_writeBuf_of_busy (s := { s with dstate := .pay (.buf .ip) }) hf hClosed hr
  · rw [exec_rxIdleOther hf, hBegin_of_open (by simpa using hOpen), State.andThen_raised]
    rfl

/-- Settles O17: an end event in sequence raises nothing, so the write of `DSTATE` follows it; out of sequence the
fault stops the row before that write. -/
theorem delimiterEndsTheFrame : Obligations.DelimiterEndsTheFrame := by
  intro s t hf hc
  refine ⟨exec_rx_payEnd hc, fun hOpen => ⟨hEnd t s, exec_endEvent hf t, ?_⟩, fun hOther => ?_⟩
  · rw [exec_rxPayEnd hf, State.andThen_running ((hEnd_fault_of_open hOpen).trans hf)]
  · rw [exec_rxPayEnd hf, hEnd_of_other hOther, State.andThen_raised]
    rfl

/-- Settles O13: the delimiter in IDLE selects RX_IDLE_END, whose effect is none. -/
theorem idleDelimiterHasNoEffect : Obligations.IdleDelimiterHasNoEffect := by
  intro s hf
  refine ⟨exec_rxIdleEnd hf, fun hd => ?_⟩
  rw [exec_rx_of_idle hd, if_pos rfl, exec_rxIdleEnd hf]

/-- Settles O16: `P_ESC` in a payload state selects RX_PAY_ESC, which writes `DSTATE` alone. -/
theorem escapeIntroducerEntersTheEscapedState : Obligations.EscapeIntroducerEntersTheEscapedState := by
  intro s t hf
  refine ⟨exec_rxPayEsc hf t, fun hd => ?_⟩
  rw [exec_rx_of_pay hd, if_pos rfl, exec_rxPayEsc hf]

end Sys2Proof.Machine
end

section
/-! A payload byte of a buffered frame (41_handler.md R135) and the read-only registers (R142): the write event by what
the frame and its buffer allow, a register read by whether its number names one, and O25 and O35 from them. -/

namespace Sys2Proof.Machine

/-! ## A write event of a buffered type (R135) -/

theorem exec_hWriteBuf {s : State} (h : s.fault = false) (t : BufType) (b : Byte) :
    exec (.hWriteBuf t b) s = .next (writeBuf t b s) :=
  (whenEnabled_running h _ : execHWriteBuf t b s = _)

/-- The step of the write offset as the number it stands for: the next one, in 32 bits (R8). -/
theorem appendByte_eq_setSlot (s : State) (t : BufType) (b : Byte) :
    s.appendByte t b = s.setSlot t
      { s.slot t with
        buf := (s.slot t).buf.write (s.slot t).idx.toNat b
        idx := BitVec.ofNat 32 ((s.slot t).idx.toNat + 1) } := by
  have hStep : (s.slot t).idx + 1 = BitVec.ofNat 32 ((s.slot t).idx.toNat + 1) := by
    simp [BitVec.ofNat_add]
  rw [State.appendByte, hStep]

/-- Settles O25: the write event split as R135 splits it, on the busy frame and on the room left in the buffer. -/
theorem bufferedByteIsStoredOrOverflows : Obligations.BufferedByteIsStoredOrOverflows := by
  intro s t b hf hOpen
  rw [exec_hWriteBuf hf]
  refine ⟨fun hBusy => ?_, fun hBusy hRoom => ?_, fun hBusy hFull => ?_⟩
  · rw [writeBuf_of_busy hOpen hBusy, State.emitEv]
  · rw [writeBuf_of_room hOpen hBusy hRoom, appendByte_eq_setSlot, State.emitEv_slot, State.emitEv]
  · rw [writeBuf_of_full hOpen hBusy hFull.not_gt, State.emitEv, State.setOverflow]

/-! ## A register read (R142) -/

/-- The numbers from 5 up name no register (R36). -/
theorem register_of_reserved (s : State) {n : Byte} (h : 5 ≤ n.toNat) : register s n = none := by
  unfold register
  split
  case h_6 => rfl
  all_goals omega

theorem exec_rdreg_of_register {s : State} {n : Byte} {v : Word} (hf : s.fault = false)
    (h : register s n = some v) : exec (.rdreg n) s = .next { s with reply := .word v } := by
  change execRdreg n s = _
  rw [execRdreg, h]
  exact whenEnabled_running hf _

theorem exec_rdreg_of_reserved {s : State} {n : Byte} (h : register s n = none) :
    exec (.rdreg n) s = .refused (.illegalOperand (.reservedRegister n)) := by
  change execRdreg n s = _
  rw [execRdreg, h]

/-- Settles O35: the five numbers of R36 name their registers, and no other number names one. -/
theorem rdregReadsItsRegister : Obligations.RdregReadsItsRegister := by
  intro s hf
  exact ⟨exec_rdreg_of_register hf rfl, exec_rdreg_of_register hf rfl, exec_rdreg_of_register hf rfl,
    exec_rdreg_of_register hf rfl, exec_rdreg_of_register hf rfl,
    fun _ hn => exec_rdreg_of_reserved (register_of_reserved s hn)⟩

end Sys2Proof.Machine
end

section
/-! One step of the transmit sequencer (42_encoder.md R175 to R179): the row a `TX_EMIT` selects in each phase, what
each row that emits a byte of the frame answers, and O40 and O41 from them. -/

namespace Sys2Proof.Machine

/-! ## The row a `TX_EMIT` selects, by the phase (R80) -/

theorem exec_txEmit_of_mark {s : State} {t : FrameType} (hp : s.txPhase = .mark) (ht : s.txType = some t)
    (hIp : t ≠ .buf .ip) : exec .txEmit s = exec (.encMark t (txExhausted s) (txByte s)) s := by
  rw [exec_txEmit, decodeEnc_txWord, hp, ht]
  dsimp only
  rw [if_neg hIp]
  rfl

theorem exec_txEmit_of_sub {s : State} {t : FrameType} (hp : s.txPhase = .sub) (ht : s.txType = some t) :
    exec .txEmit s = exec (.encSub t (txExhausted s) (txByte s)) s := by
  rw [exec_txEmit, decodeEnc_txWord, hp, ht]
  rfl

theorem exec_txEmit_of_body {s : State} {t : FrameType} (hp : s.txPhase = .body) (ht : s.txType = some t) :
    exec .txEmit s = exec
      (if txExhausted s then .encClose t (txByte s) else if txByte s = s.conf.endByte then .encBodyEnd t
        else if txByte s = s.conf.escByte then .encBodyEsc t else .encBodyLit t (txByte s)) s := by
  rw [exec_txEmit, decodeEnc_txWord, hp, ht]
  dsimp only
  split_ifs <;> rfl

/-! ## The operands `a` and `c` while payload is left (R74) -/

theorem txExhausted_of_next {s : State} {c : Byte} (h : s.txPayload[s.txPos]? = some c) : txExhausted s = false := by
  obtain ⟨hlt, -⟩ := List.getElem?_eq_some_iff.mp h
  exact decide_eq_false hlt.ne

theorem txByte_of_next {s : State} {c : Byte} (h : s.txPayload[s.txPos]? = some c) : txByte s = c := by
  simp [txByte, txNext, txExhausted_of_next h, h]

/-- In phase BODY the next payload byte selects among the three rows that emit it (R176 to R178). -/
theorem exec_txEmit_of_body_byte {s : State} {t : FrameType} {c : Byte} (hp : s.txPhase = .body)
    (ht : s.txType = some t) (hc : s.txPayload[s.txPos]? = some c) :
    exec .txEmit s = exec
      (if c = s.conf.endByte then .encBodyEnd t else if c = s.conf.escByte then .encBodyEsc t
        else .encBodyLit t c) s := by
  rw [exec_txEmit_of_body hp ht, txByte_of_next hc, txExhausted_of_next hc, if_neg Bool.false_ne_true]

/-! ## What a row answers when no fault is recorded -/

/-- Every type but IP has one marker byte (R171). -/
theorem marker_of_ne_ip (c : Config) {t : FrameType} (h : t ≠ .buf .ip) :
    marker c t = [if t = .diag then c.diagMarker else c.cfgMarker] := by
  rcases t with _ | (_ | _)
  · rfl
  · rfl
  · exact absurd rfl h

theorem exec_encMark {s : State} {t : FrameType} (h : s.fault = false) (hIp : t ≠ .buf .ip) (a : Bool) (c : Byte) :
    exec (.encMark t a c) s = .next { s with
      wire := s.wire ++ [if t = .diag then s.conf.diagMarker else s.conf.cfgMarker], txPhase := .body } := by
  change execEncMark t s = _
  rw [execEncMark, whenEnabled_running h, marker_of_ne_ip s.conf hIp]
  rfl

theorem exec_encSub {s : State} (h : s.fault = false) (t : FrameType) (a : Bool) (c : Byte) :
    exec (.encSub t a c) s = .next { s with wire := s.wire ++ [s.txSubb], txPhase := .body } :=
  (whenEnabled_running h _ : execEncSub s = _)

theorem exec_encBodyEnd {s : State} (h : s.fault = false) (t : FrameType) :
    exec (.encBodyEnd t) s = .next (emitEscape s.conf.escEnd s) :=
  (whenEnabled_running h _ : execEncBodyEnd s = _)

theorem exec_encBodyEsc {s : State} (h : s.fault = false) (t : FrameType) :
    exec (.encBodyEsc t) s = .next (emitEscape s.conf.escEsc s) :=
  (whenEnabled_running h _ : execEncBodyEsc s = _)

theorem exec_encBodyLit {s : State} (h : s.fault = false) (t : FrameType) (c : Byte) :
    exec (.encBodyLit t c) s = .next { s with wire := s.wire ++ [c], txPos := s.txPos + 1 } :=
  (whenEnabled_running h _ : execEncBodyLit c s = _)

/-! ## The obligations -/

/-- Settles O40: phase and type select the row, and the row of phase MARK finds a marker since the type is not IP. -/
theorem emitMarkerAndSubstitute : Obligations.EmitMarkerAndSubstitute := by
  intro s t a c hf
  refine ⟨fun hIp => exec_encMark hf hIp a c, exec_encSub hf t a c, fun ht => ⟨fun hp hIp => ?_, fun hp => ?_⟩⟩
  · rw [exec_txEmit_of_mark hp ht hIp, exec_encMark hf hIp]
  · rw [exec_txEmit_of_sub hp ht, exec_encSub hf]

/-- Settles O41: the next payload byte selects the row; a well-formed configuration keeps the delimiter and the
escape-introducer apart. -/
theorem emitBodyByte : Obligations.EmitBodyByte := by
  intro s t c hf
  refine ⟨exec_encBodyEnd hf t, exec_encBodyEsc hf t, exec_encBodyLit hf t c, fun hwf hp ht hc => ?_⟩
  rw [exec_txEmit_of_body_byte hp ht hc]
  refine ⟨fun hEnd => ?_, fun hEsc => ?_, fun hLit => ?_⟩
  · rw [if_pos hEnd]
  · have hNotEnd : c ≠ s.conf.endByte := hEsc ▸ (Config.wf_end_esc hwf).symm
    rw [if_neg hNotEnd, if_pos hEsc]
  · obtain ⟨hNotEsc, hNotEnd⟩ := Config.isLiteral_iff.mp hLit
    rw [if_neg hNotEnd, if_neg hNotEsc]

end Sys2Proof.Machine
end

section
/-! The fault (60_exceptions.md R208): what an operation that raises answers, cause by cause, the halt that every
instruction but the reserved codes answers once `FAULT = 1`, and O7 from them. -/

namespace Sys2Proof.Machine

/-! ## What a raise answers, by its cause (R200) -/

/-- A begin event while a frame is open is out of sequence (R131). -/
theorem exec_hBeginDiag_of_open {s : State} (hf : s.fault = false) (h : s.hopen ≠ none) :
    exec .hBeginDiag s = .next (s.raiseFault .protocol) := by
  have hRaise : beginDiag s = s.raiseFault .protocol := hBegin_of_open (t := .diag) h
  rw [← hRaise]
  exact whenEnabled_running hf beginDiag

/-- The write of `DSTATE` comes before the begin event (R102), and the raise keeps it. -/
theorem exec_rxIdleDiag_of_open {s : State} (hf : s.fault = false) (h : s.hopen ≠ none) :
    exec .rxIdleDiag s = .next (({ s with dstate := .pay .diag } : State).raiseFault .protocol) := by
  rw [exec_rxIdleDiag hf, hBegin_of_open (by simpa using h)]

theorem exec_rxEscBad {s : State} (h : s.fault = false) (t : FrameType) (b : Byte) :
    exec (.rxEscBad t b) s = .next ((hWrite t b s.setEscError).andThen fun u => { u with dstate := .pay t }) :=
  (whenEnabled_running h _ : execRxEscBad t b s = _)

/-- The violation is recorded before the write event (R110), and the raise keeps it and stops the write of `DSTATE`. -/
theorem exec_rxEscBad_of_other {s : State} {t : FrameType} (hf : s.fault = false) (h : s.hopen ≠ some t) (b : Byte) :
    exec (.rxEscBad t b) s = .next (s.setEscError.raiseFault .protocol) := by
  have hOther : s.setEscError.hopen ≠ some t := h
  rw [exec_rxEscBad hf, hWrite_of_other hOther, State.andThen_raised]

theorem exec_rx_of_unused {s : State} (h : s.dstate = .unused) (b : Byte) :
    exec (.rx b) s = exec (.rxBadstate b) s := by
  rw [exec_rx, decodeDec_rxWord, h]
  rfl

theorem exec_rxBadstate {s : State} (h : s.fault = false) (b : Byte) :
    exec (.rxBadstate b) s = .next (s.raiseFault .badDstate) :=
  (whenEnabled_running h _ : execRxBadstate s = _)

/-- Outside TX idle a sequencer without a type is a state of R181. -/
theorem exec_txEmit_of_notype {s : State} (hp : s.txPhase ≠ .idle) (ht : s.txType = none) :
    exec .txEmit s = exec (.encBadstateNotype s.txPhase (txExhausted s) (txByte s)) s := by
  rw [exec_txEmit, decodeEnc_txWord, ht]
  cases h : s.txPhase with
  | idle => exact absurd h hp
  | _ => rfl

theorem exec_encBadstateNotype {s : State} (h : s.fault = false) (ph : TxPhase) (a : Bool) (c : Byte) :
    exec (.encBadstateNotype ph a c) s = .next (s.raiseFault .badTxstate) :=
  (whenEnabled_running h _ : execEncBadstateNotype s = _)

/-- A read outside the delivered frame breaks the consumer's contract (R141). -/
theorem exec_rdbuf_of_outside {s : State} {t : BufType} {i : Word} (hf : s.fault = false)
    (h : ¬ ((s.slot t).ready = true ∧ i.toNat < (s.slot t).len.toNat)) :
    exec (.rdbuf t i) s = .next (s.raiseFault .consumerContract) := by
  change execRdbuf t i s = _
  rw [execRdbuf, if_neg (by simp [hf]), if_neg h]

/-! ## Once a fault is recorded -/

/-! The rows test `FAULT` first (`whenEnabled`), so `if_pos` answers for each of them. -/

section Halted

variable {s : State} (h : s.fault = true)
include h

theorem whenProducer_halted {p : Nat} (hp : p < s.conf.nprod) (k : State → State) :
    whenProducer p s k = .fault (.halted s.faultCause) := by
  rw [whenProducer, if_pos hp, whenEnabled_halted h]

theorem runDec_halted (a : DecAction) : runDec a s = .fault (.halted s.faultCause) := by
  cases a <;> exact if_pos h

theorem runEnc_halted (a : EncAction) : runEnc a s = .fault (.halted s.faultCause) := by
  cases a <;> exact if_pos h

end Halted

/-- The numbers below 5 name registers (R36). -/
theorem register_of_named (s : State) {n : Byte} (h : n.toNat < 5) : ∃ v, register s n = some v := by
  obtain hn | hn | hn | hn | hn : n.toNat = 0 ∨ n.toNat = 1 ∨ n.toNat = 2 ∨ n.toNat = 3 ∨ n.toNat = 4 := by omega
  all_goals exact ⟨_, by rw [register, hn]; rfl⟩

/-- R208: no instruction a format can spell has a step; the reserved codes are refused as ever (R82). -/
theorem exec_halted {i : Instr} {s : State} (h : s.fault = true) (hwf : i.wf s.conf = true)
    (hOp0 : i ≠ .reservedOp0) (hOp8F : ∀ lo, i ≠ .reservedOp8F lo) :
    exec i s = .fault (.halted s.faultCause) := by
  cases i with
  | rx b => exact runDec_halted h _
  | txEmit => exact runEnc_halted h _
  | rdbuf t k => exact if_pos h
  | rdreg n =>
    obtain ⟨v, hv⟩ := register_of_named s (of_decide_eq_true hwf)
    change execRdreg n s = _
    rw [execRdreg, hv]
    exact whenEnabled_halted h _
  | txSubmit p t payload => exact whenProducer_halted h (of_decide_eq_true hwf) _
  | txAcquire p => exact whenProducer_halted h (of_decide_eq_true hwf) _
  | reservedOp0 => exact absurd rfl hOp0
  | reservedOp8F lo => exact absurd rfl (hOp8F lo)
  | _ => exact if_pos h

theorem step_halted {s : State} (h : s.fault = true) (hc : s.conf.wf = true) :
    step s = .fault (.halted s.faultCause) := by
  rw [step, fetch, if_pos hc, if_pos h]

/-- A faulted state ends no run correctly (R241). -/
theorem not_endsCorrectly_of_fault {c : Config} {ops : List Instr} {s : State} (h : s.fault = true) :
    ¬ EndsCorrectly c ops s := by
  rintro ⟨-, hRunning⟩
  exact absurd hRunning (by simp [h])

/-- Settles O7: each cause answers the state with the fault raised in it, after which a step and every instruction but
the reserved codes answer the halt. -/
theorem faultEntryIsFinal : Obligations.FaultEntryIsFinal := by
  refine ⟨fun s hf => ⟨exec_hBeginDiag_of_open hf, fun b hd => ?_, fun hp ht => ?_, fun t i hr => ?_,
    fun t b hOther => exec_rxEscBad_of_other hf hOther b, exec_rxIdleDiag_of_open hf⟩,
    fun s h => ⟨step_halted h, fun i => exec_halted h⟩, fun c ops s => not_endsCorrectly_of_fault⟩
  · rw [exec_rx_of_unused hd, exec_rxBadstate hf, State.raiseFault]
  · rw [exec_txEmit_of_notype (by simp [hp]) ht, exec_encBadstateNotype hf, State.raiseFault]
  · rw [exec_rdbuf_of_outside hf (by simp [hr]), State.raiseFault]

end Sys2Proof.Machine
end

section
/-! Words and instructions (30_encoding.md §2, §4; 00_scope.md R7): a word read back gives its instruction, an
instruction laid out gives its word, and which configurations are well formed. O1, O2, O4 and O10 from that. -/

namespace Sys2Proof

/-! ## The decode of a laid-out word -/

theorem decodeDec_decWord (c : Config) (d : DState) (b : Byte) :
    decodeDec c (decWord d b) =
      match d with
      | .unused => .badstate b
      | .idle =>
        if b = c.endByte then .idleEnd else if b = c.diagMarker then .idleDiag
        else if b = c.cfgMarker then .idleCfg else .idleOther b
      | .pay t => if b = c.escByte then .payEsc t else if b = c.endByte then .payEnd t else .payLit t b
      | .esc t => if b = c.escEnd then .escSubend t else if b = c.escEsc then .escSubesc t else .escBad t b := by
  simp only [decodeDec, decWord_state, decWord_byte, DState.ofCode_code]
    <;> cases d <;> rfl

theorem decodeEnc_encWord (c : Config) (ph : TxPhase) (t : Option FrameType) (a : Bool) (b : Byte) :
    decodeEnc c (encWord ph t a b) =
      match ph, t with
      | .idle, t => .idle t a b
      | ph, none => .badstateNotype ph a b
      | .mark, some t => if t = .buf .ip then .badstateMarkip a b else .mark t a b
      | .sub, some t => .sub t a b
      | .body, some t =>
        if a then .close t b else if b = c.endByte then .bodyEnd t else if b = c.escByte then .bodyEsc t
        else .bodyLit t b := by
  simp only [decodeEnc, encWord_phase, encWord_type, encWord_exhausted, encWord_byte, TxPhase.ofCode_code,
    frameOfCode_frameCode]
    <;> cases ph <;> cases t <;> rfl

/-! ## Decode after encode -/

theorem decode_encode_dec {c : Config} (hc : c.wf = true) (a : DecAction) (ha : a.toInstr.wf c = true) :
    decode c (encode c a.toInstr) = .ok a.toInstr := by
  cases a with
  | badstate b => simp [DecAction.toInstr, encode, decode, decodeDec_decWord]
  | idleEnd => simp [DecAction.toInstr, encode, decode, decodeDec_decWord]
  | idleDiag => simp [DecAction.toInstr, encode, decode, decodeDec_decWord, (Config.wf_end_diag hc).symm]
  | idleCfg =>
    simp [DecAction.toInstr, encode, decode, decodeDec_decWord, (Config.wf_end_cfg hc).symm,
      (Config.wf_diag_cfg hc).symm]
  | idleOther b =>
    obtain ⟨hEnd, hDiag, hCfg⟩ := Config.isIdleOther_iff.mp ha
    simp [DecAction.toInstr, encode, decode, decodeDec_decWord, hEnd, hDiag, hCfg]
  | payEsc t => simp [DecAction.toInstr, encode, decode, decodeDec_decWord]
  | payEnd t => simp [DecAction.toInstr, encode, decode, decodeDec_decWord, Config.wf_end_esc hc]
  | payLit t b =>
    obtain ⟨hEsc, hEnd⟩ := Config.isLiteral_iff.mp ha
    simp [DecAction.toInstr, encode, decode, decodeDec_decWord, hEsc, hEnd]
  | escSubend t => simp [DecAction.toInstr, encode, decode, decodeDec_decWord]
  | escSubesc t => simp [DecAction.toInstr, encode, decode, decodeDec_decWord, (Config.wf_subst hc).symm]
  | escBad t b =>
    obtain ⟨hEnd, hEsc⟩ := Config.isEscapeViolation_iff.mp ha
    simp [DecAction.toInstr, encode, decode, decodeDec_decWord, hEnd, hEsc]

theorem decode_encode_enc {c : Config} (hc : c.wf = true) (a : EncAction) (ha : a.toInstr.wf c = true) :
    decode c (encode c a.toInstr) = .ok a.toInstr := by
  cases a with
  | idle t a b => simp [EncAction.toInstr, encode, decode, decodeEnc_encWord]
  | badstateNotype ph a b =>
    have hph : ph ≠ .idle := of_decide_eq_true ha
    cases ph <;> simp_all [EncAction.toInstr, encode, decode, decodeEnc_encWord]
  | badstateMarkip a b => simp [EncAction.toInstr, encode, decode, decodeEnc_encWord]
  | mark t a b =>
    have hIp : t ≠ .buf .ip := of_decide_eq_true ha
    simp [EncAction.toInstr, encode, decode, decodeEnc_encWord, hIp]
  | sub t a b => simp [EncAction.toInstr, encode, decode, decodeEnc_encWord]
  | close t b => simp [EncAction.toInstr, encode, decode, decodeEnc_encWord]
  | bodyEnd t => simp [EncAction.toInstr, encode, decode, decodeEnc_encWord]
  | bodyEsc t => simp [EncAction.toInstr, encode, decode, decodeEnc_encWord, (Config.wf_end_esc hc).symm]
  | bodyLit t b =>
    obtain ⟨hEsc, hEnd⟩ := Config.isLiteral_iff.mp ha
    simp [EncAction.toInstr, encode, decode, decodeEnc_encWord, hEsc, hEnd]

/-- An EV word decodes by its type and its kind, whatever the bits R81 leaves open. -/
theorem decodeEv_evWord (k : BitVec 2) (t : FrameType) (d : BitVec 9) :
    decodeEv (evWord k (some t) d) =
      match t with
      | .diag =>
        if k = 1#2 then .ok .beginDiag
        else if k = 2#2 then .ok (.writeDiag ((evWord k (some t) d).extractLsb' 0 8))
        else if k = 3#2 then .ok .endDiag else .error (.noSuchEvent (evWord k (some t) d))
      | .buf t' =>
        if k = 1#2 then .ok (.beginBuf t')
        else if k = 2#2 then .ok (.writeBuf t' ((evWord k (some t) d).extractLsb' 0 8))
        else if k = 3#2 then .ok (.endBuf t') else .error (.noSuchEvent (evWord k (some t) d)) := by
  simp only [decodeEv, evWord_kind, evWord_type, frameOfCode_frameCode]
    <;> cases t <;> rfl

theorem decode_encode_ev (c : Config) (a : EvAction) : decode c (encode c a.toInstr) = .ok a.toInstr := by
  cases a <;> simp [EvAction.toInstr, encode, decode, decodeEv_evWord]

theorem decodePort_of_high (c : Config) {w : PortWord} (h : 8 ≤ w.op.toNat) :
    decodePort c w = .ok (.reservedOp8F (w.op.extractLsb' 0 3)) := by
  unfold decodePort
  split
  case h_9 => rfl
  all_goals omega

theorem high_code_ge (lo : BitVec 3) : 8 ≤ (1#1 ++ lo).toNat := by revert lo; decide

theorem decode_encode_port {c : Config} {i : Instr} (hi : i.isPort = true) (hwf : i.wf c = true) :
    decode c (encode c i) = .ok i := by
  cases i with
  | rx b => rfl
  | consume t => simp [encode, decode, decodePort]
  | rdbuf t k => simp [encode, decode, decodePort]
  | rdreg n =>
    have hn : n.toNat < 5 := of_decide_eq_true hwf
    simp [encode, decode, decodePort, hn]
  | txSubmit p t payload =>
    have hp : p < c.nprod := of_decide_eq_true hwf
    simp [encode, decode, decodePort, hp]
  | txAcquire p =>
    have hp : p < c.nprod := of_decide_eq_true hwf
    simp [encode, decode, decodePort, hp]
  | txEmit => rfl
  | reservedOp0 => rfl
  | reservedOp8F lo =>
    have hLow : (1#1 ++ lo).extractLsb' 0 3 = lo := extract_low 1#1 lo
    exact (decodePort_of_high c (high_code_ge lo)).trans (by rw [hLow])
  | _ => exact absurd hi Bool.false_ne_true

/-- Every instruction is an action of one of the three maps or an operation of a port. -/
theorem Instr.format_cases (i : Instr) :
    (∃ a : DecAction, i = a.toInstr) ∨ (∃ a : EncAction, i = a.toInstr) ∨ (∃ a : EvAction, i = a.toInstr) ∨
      i.isPort = true := by
  cases i with
  | rxBadstate b => exact .inl ⟨.badstate b, rfl⟩
  | rxIdleEnd => exact .inl ⟨.idleEnd, rfl⟩
  | rxIdleDiag => exact .inl ⟨.idleDiag, rfl⟩
  | rxIdleCfg => exact .inl ⟨.idleCfg, rfl⟩
  | rxIdleOther b => exact .inl ⟨.idleOther b, rfl⟩
  | rxPayEsc t => exact .inl ⟨.payEsc t, rfl⟩
  | rxPayEnd t => exact .inl ⟨.payEnd t, rfl⟩
  | rxPayLit t b => exact .inl ⟨.payLit t b, rfl⟩
  | rxEscSubend t => exact .inl ⟨.escSubend t, rfl⟩
  | rxEscSubesc t => exact .inl ⟨.escSubesc t, rfl⟩
  | rxEscBad t b => exact .inl ⟨.escBad t b, rfl⟩
  | encIdle t a c => exact .inr (.inl ⟨.idle t a c, rfl⟩)
  | encBadstateNotype ph a c => exact .inr (.inl ⟨.badstateNotype ph a c, rfl⟩)
  | encBadstateMarkip a c => exact .inr (.inl ⟨.badstateMarkip a c, rfl⟩)
  | encMark t a c => exact .inr (.inl ⟨.mark t a c, rfl⟩)
  | encSub t a c => exact .inr (.inl ⟨.sub t a c, rfl⟩)
  | encClose t c => exact .inr (.inl ⟨.close t c, rfl⟩)
  | encBodyEnd t => exact .inr (.inl ⟨.bodyEnd t, rfl⟩)
  | encBodyEsc t => exact .inr (.inl ⟨.bodyEsc t, rfl⟩)
  | encBodyLit t c => exact .inr (.inl ⟨.bodyLit t c, rfl⟩)
  | hBeginDiag => exact .inr (.inr (.inl ⟨.beginDiag, rfl⟩))
  | hBeginBuf t => exact .inr (.inr (.inl ⟨.beginBuf t, rfl⟩))
  | hWriteDiag b => exact .inr (.inr (.inl ⟨.writeDiag b, rfl⟩))
  | hWriteBuf t b => exact .inr (.inr (.inl ⟨.writeBuf t b, rfl⟩))
  | hEndDiag => exact .inr (.inr (.inl ⟨.endDiag, rfl⟩))
  | hEndBuf t => exact .inr (.inr (.inl ⟨.endBuf t, rfl⟩))
  | _ => exact .inr (.inr (.inr rfl))

/-- Settles O1: format by format, the fields of the word laid out select the row the instruction came from. -/
theorem decodeInvertsEncode : Obligations.DecodeInvertsEncode := by
  intro c i hc hi
  obtain ⟨a, rfl⟩ | ⟨a, rfl⟩ | ⟨a, rfl⟩ | hPort := i.format_cases
  · exact decode_encode_dec hc a hi
  · exact decode_encode_enc hc a hi
  · exact decode_encode_ev c a
  · exact decode_encode_port hPort hi

/-! ## Encode after decode -/

theorem encode_decodeDec_decWord (c : Config) (d : DState) (b : Byte) :
    (decodeDec c (decWord d b)).toInstr.wf c = true ∧
      encode c (decodeDec c (decWord d b)).toInstr = .dec (decWord d b) := by
  rw [decodeDec_decWord]
  cases d with
  | unused => exact ⟨rfl, rfl⟩
  | idle =>
    dsimp only
    split_ifs with hEnd hDiag hCfg
    · exact ⟨rfl, by rw [hEnd]; rfl⟩
    · exact ⟨rfl, by rw [hDiag]; rfl⟩
    · exact ⟨rfl, by rw [hCfg]; rfl⟩
    · exact ⟨Config.isIdleOther_iff.mpr ⟨hEnd, hDiag, hCfg⟩, rfl⟩
  | pay t =>
    dsimp only
    split_ifs with hEsc hEnd
    · exact ⟨rfl, by rw [hEsc]; rfl⟩
    · exact ⟨rfl, by rw [hEnd]; rfl⟩
    · exact ⟨Config.isLiteral_iff.mpr ⟨hEsc, hEnd⟩, rfl⟩
  | esc t =>
    dsimp only
    split_ifs with hEnd hEsc
    · exact ⟨rfl, by rw [hEnd]; rfl⟩
    · exact ⟨rfl, by rw [hEsc]; rfl⟩
    · exact ⟨Config.isEscapeViolation_iff.mpr ⟨hEnd, hEsc⟩, rfl⟩

theorem encode_decodeEnc_encWord (c : Config) (ph : TxPhase) (t : Option FrameType) (a : Bool) (b : Byte) :
    (decodeEnc c (encWord ph t a b)).toInstr.wf c = true ∧
      encode c (decodeEnc c (encWord ph t a b)).toInstr = .enc (encWord ph t a b) := by
  rw [decodeEnc_encWord]
  cases ph with
  | idle => exact ⟨rfl, rfl⟩
  | mark =>
    cases t with
    | none => exact ⟨rfl, rfl⟩
    | some t =>
      dsimp only
      split_ifs with hIp
      · exact ⟨rfl, by rw [hIp]; rfl⟩
      · exact ⟨decide_eq_true hIp, rfl⟩
  | body =>
    cases t with
    | none => exact ⟨rfl, rfl⟩
    | some t =>
      dsimp only
      split_ifs with ha hEnd hEsc
      · exact ⟨rfl, by rw [ha]; rfl⟩
      all_goals rw [Bool.not_eq_true] at ha; rw [ha]
      · exact ⟨rfl, by rw [hEnd]; rfl⟩
      · exact ⟨rfl, by rw [hEsc]; rfl⟩
      · exact ⟨Config.isLiteral_iff.mpr ⟨hEsc, hEnd⟩, rfl⟩
  | sub => cases t <;> exact ⟨rfl, rfl⟩

/-- Settles O2: a word is laid out from its own fields, and the row they select gives each of them back. -/
theorem encodeInvertsDecodeOnFormedWords : Obligations.EncodeInvertsDecodeOnFormedWords := by
  intro c
  refine ⟨fun w => ?_, fun w => ?_⟩
  · rw [← decWord_fields w]
    exact encode_decodeDec_decWord c _ _
  · rw [← encWord_fields w]
    exact encode_decodeEnc_encWord c _ _ _ _

/-- Settles O4: eight closed words, decoded by evaluation. -/
theorem printedWordsDecode : Obligations.PrintedWordsDecode := by
  unfold Obligations.PrintedWordsDecode
  decide

/-! ## Well-formed configurations (R7) -/

theorem Config.wf_iff (c : Config) :
    c.wf = true ↔
      [c.endByte, c.escByte, c.diagMarker, c.cfgMarker].Nodup ∧
      c.escEnd ≠ c.escEsc ∧
      (∀ b ∈ [c.escEnd, c.escEsc], b ≠ c.endByte ∧ b ≠ c.escByte) ∧
      (1 ≤ c.cfgCap ∧ c.cfgCap ≤ 2 ^ 32 - 1) ∧ (1 ≤ c.ipCap ∧ c.ipCap ≤ 2 ^ 32 - 1) ∧ 1 ≤ c.nprod := by
  have hCfg : c.cfgCap ≤ 2 ^ 32 - 1 ↔ c.cfgCap < 2 ^ 32 := by omega
  have hIp : c.ipCap ≤ 2 ^ 32 - 1 ↔ c.ipCap < 2 ^ 32 := by omega
  rw [hCfg, hIp]
  simp only [Config.wf, Config.wf1, Config.wf2, Config.wf3, Config.inRange, Bool.and_eq_true, decide_eq_true_eq,
    List.nodup_cons, List.mem_cons, List.not_mem_nil, not_or, forall_eq_or_imp, List.nodup_nil, not_false_eq_true,
    or_false, forall_eq, and_true]
  tauto

end Sys2Proof

namespace Sys2Proof.Machine

theorem step_of_illFormed {s : State} (h : s.conf.wf = false) : step s = .refused .illFormedConfiguration := by
  rw [step, fetch, if_neg (by simp [h])]

/-- Settles O10: WF1 to WF3 and the ranges as `Config.wf` tests them, and the test a step makes first. -/
theorem illFormedConfigurationIsRefused : Obligations.IllFormedConfigurationIsRefused :=
  ⟨Config.wf_iff, by decide, fun _ => step_of_illFormed⟩

end Sys2Proof.Machine
end

section
/-! A step (20_memory.md R57, 00_scope.md R9): which presented word it takes, and what it answers for a word that is
refused. O5, O6, O8 and O9 from that. -/

namespace Sys2Proof.Machine

theorem waits_of_decode {s : State} {w : Presented} {i : Instr} (h : decode s.conf w.code = .ok i) :
    waits s w = isHeld i s := by rw [waits, h]

theorem waits_of_error {s : State} {w : Presented} {e : DecodeError} (h : decode s.conf w.code = .error e) :
    waits s w = false := by rw [waits, h]

section Running

variable {s : State} (hc : s.conf.wf = true) (hf : s.fault = false)
include hc hf

/-- A step runs the instruction that the word it selects spells. -/
theorem step_of_selected {w : Presented} {others : List Presented} {i : Instr}
    (hs : selectEnabled s s.pending = some (w, others)) (hd : decode s.conf w.code = .ok i) :
    step s = exec i { s with pending := others, reply := .none } := by
  rw [step, fetch, if_pos hc, if_neg (by simp [hf]), hs]
  cases w with
  | port pw =>
    have hPort : decodePort s.conf pw = .ok i := hd
    simp [hPort]
  | event ew =>
    cases hEv : decodeEv ew with
    | error e => simp [Presented.code, decode, hEv] at hd
    | ok a =>
      have hi : a.toInstr = i := by simpa [Presented.code, decode, hEv] using hd
      simp [hEv, hi]

/-- Where every presented word waits, so does the block. -/
theorem step_of_waiting (h : ∀ w ∈ s.pending, waits s w = true) : step s = .next s := by
  rw [step, fetch, if_pos hc, if_neg (by simp [hf]), selectEnabled_eq_none.mpr h]

theorem step_of_refused_word {w : PortWord} {rest : List Presented} {e : DecodeError}
    (hp : s.pending = .port w :: rest) (hd : decodePort s.conf w = .error e) :
    step s = .refused (.illegalOperand e) := by
  have hWaits : waits s (.port w) = false := waits_of_error hd
  rw [step, fetch, if_pos hc, if_neg (by simp [hf]), hp]
  simp [selectEnabled, hWaits, hd]

theorem step_of_no_event {w : BitVec 13} {rest : List Presented} {e : DecodeError}
    (hp : s.pending = .event w :: rest) (hd : decodeEv w = .error e) :
    step s = .next { s with
      pending := rest, reply := .none, fault := true, faultCause := some .protocol } := by
  have hWaits : waits s (.event w) = false := waits_of_error (e := e) (by simp [Presented.code, decode, hd])
  rw [step, fetch, if_pos hc, if_neg (by simp [hf]), hp]
  simp [selectEnabled, hWaits, hd, State.raiseFault]

theorem step_of_reserved_word {w : PortWord} {rest : List Presented} {i : Instr} {op : BitVec 4}
    (hp : s.pending = .port w :: rest) (hd : decodePort s.conf w = .ok i) (hHeld : isHeld i s = false)
    (hi : ∀ u, exec i u = .refused (.reservedOperation op)) : step s = .refused (.reservedOperation op) := by
  have hWaits : waits s (.port w) = false := (waits_of_decode (w := .port w) hd).trans hHeld
  have hSel : selectEnabled s s.pending = some (.port w, rest) := by simp [hp, selectEnabled, hWaits]
  rw [step_of_selected hc hf hSel hd, hi]

end Running

/-- Settles O5: the words before the oldest enabled one wait, so the step selects that one. -/
theorem stepRunsThePresentedInstruction : Obligations.StepRunsThePresentedInstruction := by
  intro s before after w i hc hf hp hBefore hd hHeld
  have hSel : selectEnabled s s.pending = some (w, before ++ after) :=
    selectEnabled_eq_some.mpr ⟨before, after, hp, rfl,
      fun v hv => by
        obtain ⟨j, hj, hWaits⟩ := hBefore v hv
        rw [waits_of_decode hj, hWaits],
      by rw [waits_of_decode hd, hHeld]⟩
  exact step_of_selected hc hf hSel hd

/-- Settles O6: every presented word waits, so none is selected. -/
theorem stepWithNothingPresentedWaits : Obligations.StepWithNothingPresentedWaits := by
  intro s hc hf hAll
  refine step_of_waiting hc hf fun w hw => ?_
  obtain ⟨i, hd, hHeld⟩ := hAll w hw
  rw [waits_of_decode hd, hHeld]

/-! ## Words that are refused (R78, R82) -/

theorem operandBuf_of_not_buffered {t : BitVec 2} (h : t.toNat < 2) : operandBuf t = .error (.illegalFrameType t) := by
  have hNone : bufOfCode t = none := by revert t; decide
  rw [operandBuf, hNone]

theorem operandFrame_zero : operandFrame 0#2 = .error (.illegalFrameType 0) := rfl

theorem frameOfCode_of_ne_zero {t : BitVec 2} (h : t ≠ 0) : ∃ f, frameOfCode t = some f := by
  cases hf : frameOfCode t with
  | some f => exact ⟨f, rfl⟩
  | none => exact absurd (by rw [← frameCode_frameOfCode t, hf]; rfl) h

theorem decodeEv_of_no_kind {w : BitVec 13} (h : w.extractLsb' 11 2 = 0) :
    decodeEv w = .error (.noSuchEvent w) := by
  simp only [decodeEv, h]
  split <;> rfl

theorem decodeEv_of_no_type {w : BitVec 13} (h : w.extractLsb' 9 2 = 0) :
    decodeEv w = .error (.noSuchEvent w) := by
  have hNone : frameOfCode (w.extractLsb' 9 2) = none := by rw [h]; rfl
  simp only [decodeEv, hNone]

theorem exec_reservedOp8F (lo : BitVec 3) (s : State) :
    exec (.reservedOp8F lo) s = .refused (.reservedOperation (1#1 ++ lo)) := rfl

/-- A code with its high bit set is that bit and the three below it. -/
theorem high_code_eq {op : BitVec 4} (h : 8 ≤ op.toNat) : 1#1 ++ op.extractLsb' 0 3 = op := by revert op; decide

theorem isHeld_reservedOp8F (lo : BitVec 3) (s : State) : isHeld (.reservedOp8F lo) s = false := by simp [isHeld]

theorem isHeld_reservedOp0 (s : State) : isHeld .reservedOp0 s = false := by simp [isHeld]

/-- Settles O8: each word decodes to its own error, or to a reserved code, whose meaning is a refusal. -/
theorem reservedAndIllegalWordsAreRefused : Obligations.ReservedAndIllegalWordsAreRefused := by
  intro s rest hc hf
  refine ⟨fun w hp => ⟨fun hOp => ?_, fun hOp ht => ?_, fun hOp hn => ?_, fun hOp ht => ?_, fun hOp ht hq => ?_,
    fun hOp hq => ?_⟩, fun w hp hw => ?_⟩
  · obtain hOp | hOp := hOp
    · have hd : decodePort s.conf w = .ok .reservedOp0 := by simp [decodePort, hOp]
      rw [hOp]
      exact step_of_reserved_word hc hf hp hd (isHeld_reservedOp0 s) fun _ => rfl
    · refine step_of_reserved_word hc hf hp (decodePort_of_high _ hOp) (isHeld_reservedOp8F _ s) fun u => ?_
      rw [exec_reservedOp8F, high_code_eq hOp]
  · refine step_of_refused_word hc hf hp ?_
    obtain hOp | hOp := hOp <;> simp [decodePort, hOp, operandBuf_of_not_buffered ht]
  · exact step_of_refused_word hc hf hp (by simp [decodePort, hOp, Nat.not_lt.mpr hn])
  · exact step_of_refused_word hc hf hp (by simp [decodePort, hOp, ht, operandFrame_zero])
  · obtain ⟨f, hFrame⟩ := frameOfCode_of_ne_zero ht
    exact step_of_refused_word hc hf hp (by simp [decodePort, hOp, operandFrame, hFrame, Nat.not_lt.mpr hq])
  · exact step_of_refused_word hc hf hp (by simp [decodePort, hOp, Nat.not_lt.mpr hq])
  · obtain hKind | hType := hw
    · exact step_of_no_event hc hf hp (decodeEv_of_no_kind hKind)
    · exact step_of_no_event hc hf hp (decodeEv_of_no_type hType)

/-- Settles O9: the refusal names the code, whose high bit is set. -/
theorem reservedOperationsAreRefused : Obligations.ReservedOperationsAreRefused := by
  intro s
  refine ⟨rfl, fun lo => ?_⟩
  have hCode : 1#1 ++ lo = BitVec.ofNat 4 (8 + lo.toNat) := by revert lo; decide
  rw [exec_reservedOp8F, hCode]

end Sys2Proof.Machine
end

section
/-! What an instruction does to the state, as a function (00_scope.md R9): the effect of each decoder action, encoder
action and handler event and of each operation of a port; which properties the receive path keeps; and what the two
paths leave alone (42_encoder.md R187). O11 and O31 from that. -/

namespace Sys2Proof

/-! ## What an action or an operation works on -/

/-- The frame type a decoder action works on. -/
def DecAction.frame : DecAction → Option FrameType
  | .badstate _ => none
  | .idleEnd => none
  | .idleDiag => some .diag
  | .idleCfg => some (.buf .cfg)
  | .idleOther _ => some (.buf .ip)
  | .payEsc t => some t
  | .payEnd t => some t
  | .payLit t _ => some t
  | .escSubend t => some t
  | .escSubesc t => some t
  | .escBad t _ => some t

/-- The frame type of a handler event. -/
def EvAction.frame : EvAction → FrameType
  | .beginDiag => .diag
  | .beginBuf t => .buf t
  | .writeDiag _ => .diag
  | .writeBuf t _ => .buf t
  | .endDiag => .diag
  | .endBuf t => .buf t

/-- The operations of the producers, the arbiter and the sink. -/
def Instr.isTransmit : Instr → Bool
  | .txSubmit _ _ _ => true
  | .txAcquire _ => true
  | .txEmit => true
  | _ => false

theorem Instr.isPort_of_isTransmit {i : Instr} (hi : i.isTransmit = true) : i.isPort = true := by
  cases i with
  | txSubmit p t payload => rfl
  | txAcquire p => rfl
  | txEmit => rfl
  | _ => cases hi

end Sys2Proof

namespace Sys2Proof.Machine

/-! ## Effects -/

/-- The effect of a decoder action where no fault is recorded (R101 to R111). -/
def decEffect : DecAction → State → State
  | .badstate _, s => s.raiseFault .badDstate
  | .idleEnd, s => s
  | .idleDiag, s => hBegin .diag { s with dstate := .pay .diag }
  | .idleCfg, s => hBegin (.buf .cfg) { s with dstate := .pay (.buf .cfg) }
  | .idleOther b, s => (hBegin (.buf .ip) { s with dstate := .pay (.buf .ip) }).andThen (hWrite (.buf .ip) b)
  | .payEsc t, s => { s with dstate := .esc t }
  | .payEnd t, s => (hEnd t s).andThen fun u => { u with dstate := .idle }
  | .payLit t b, s => hWrite t b s
  | .escSubend t, s => (hWrite t s.conf.endByte s).andThen fun u => { u with dstate := .pay t }
  | .escSubesc t, s => (hWrite t s.conf.escByte s).andThen fun u => { u with dstate := .pay t }
  | .escBad t b, s => (hWrite t b s.setEscError).andThen fun u => { u with dstate := .pay t }

/-- The effect of an encoder action where no fault is recorded (R175 to R182). -/
def encEffect : EncAction → State → State
  | .idle _ _ _, s => s
  | .badstateNotype _ _ _, s => s.raiseFault .badTxstate
  | .badstateMarkip _ _, s => s.raiseFault .badTxstate
  | .mark t _ _, s =>
    match marker s.conf t with
    | m :: _ => { s.emitWire m with txPhase := .body }
    | [] => s.raiseFault .badTxstate
  | .sub _ _ _, s => { s.emitWire s.txSubb with txPhase := .body }
  | .close _ _, s => releaseLock (s.emitWire s.conf.endByte)
  | .bodyEnd _, s => emitEscape s.conf.escEnd s
  | .bodyEsc _, s => emitEscape s.conf.escEsc s
  | .bodyLit _ c, s => { s.emitWire c with txPos := s.txPos + 1 }

/-- The effect of a handler event where no fault is recorded (R132 to R137). -/
def evEffect : EvAction → State → State
  | .beginDiag => hBegin .diag
  | .beginBuf t => hBegin (.buf t)
  | .writeDiag b => hWrite .diag b
  | .writeBuf t b => hWrite (.buf t) b
  | .endDiag => hEnd .diag
  | .endBuf t => hEnd (.buf t)

/-- The effect of an operation of a port where it reaches a next state; a reserved code reaches none. -/
def portEffect (i : Instr) (s : State) : State :=
  match i with
  | .rx b => decEffect (decodeDec s.conf (rxWord s b)) s
  | .consume t => s.setSlot t { s.slot t with ready := false }
  | .rdbuf t k =>
    if (s.slot t).ready = true ∧ k.toNat < (s.slot t).len.toNat then s.answer (.byte (s.memRead t k.toNat))
    else s.raiseFault .consumerContract
  | .rdreg n => s.answer (.word ((register s n).getD 0))
  | .txSubmit p t payload => submit p { frame := t, payload := payload } s
  | .txAcquire p => acquire p s
  | .txEmit => encEffect (decodeEnc s.conf (txWord s)) s
  | _ => s

theorem runDec_eq (a : DecAction) (s : State) : runDec a s = whenEnabled s (decEffect a) := by cases a <;> rfl

theorem runEnc_eq (a : EncAction) (s : State) : runEnc a s = whenEnabled s (encEffect a) := by cases a <;> rfl

theorem exec_ev (a : EvAction) (s : State) : exec a.toInstr s = whenEnabled s (evEffect a) := by cases a <;> rfl

theorem exec_dec_running {s : State} (hf : s.fault = false) (a : DecAction) :
    exec a.toInstr s = .next (decEffect a s) := by
  rw [exec_dec, runDec_eq, whenEnabled_running hf]

theorem exec_enc_running {s : State} (hf : s.fault = false) (a : EncAction) :
    exec a.toInstr s = .next (encEffect a s) := by
  rw [exec_enc, runEnc_eq, whenEnabled_running hf]

theorem exec_rx_running {s : State} (hf : s.fault = false) (b : Byte) :
    exec (.rx b) s = .next (portEffect (.rx b) s) := by
  rw [exec_rx, exec_dec_running hf, portEffect]

theorem exec_txEmit_running {s : State} (hf : s.fault = false) :
    exec .txEmit s = .next (portEffect .txEmit s) := by
  rw [exec_txEmit, exec_enc_running hf, portEffect]

theorem exec_consume {s : State} (hf : s.fault = false) (t : BufType) :
    exec (.consume t) s = .next (s.setSlot t { s.slot t with ready := false }) :=
  (whenEnabled_running hf _ : execConsume t s = _)

theorem exec_txSubmit {s : State} (hf : s.fault = false) {p : Nat} (hp : p < s.conf.nprod) (t : FrameType)
    (payload : List Byte) :
    exec (.txSubmit p t payload) s = .next (submit p { frame := t, payload := payload } s) := by
  change whenProducer p s _ = _
  rw [whenProducer, if_pos hp, whenEnabled_running hf]

theorem exec_txAcquire {s : State} (hf : s.fault = false) {p : Nat} (hp : p < s.conf.nprod) :
    exec (.txAcquire p) s = .next (acquire p s) := by
  change whenProducer p s _ = _
  rw [whenProducer, if_pos hp, whenEnabled_running hf]

/-! ## The transmit path's own operations, case by case (R172, R173, R180) -/

theorem submit_of_none {p : Nat} {r : TxRequest} {s : State} (h : Store.read s.txReq p = none) :
    submit p r s = { s with txReq := Store.write s.txReq p r } := by rw [submit, h]

theorem submit_of_some {p : Nat} {r q : TxRequest} {s : State} (h : Store.read s.txReq p = some q) :
    submit p r s = s := by rw [submit, h]

theorem acquire_of_free {p : Nat} {r : TxRequest} {s : State} (ho : s.txOwner = none)
    (hr : Store.read s.txReq p = some r) :
    acquire p s = { s with
      txOwner := some p, txType := some r.frame, txPayload := r.payload, txPos := 0
      txPhase := firstPhase r.frame } := by rw [acquire, ho, hr]

theorem acquire_of_taken {p q : Nat} {s : State} (ho : s.txOwner = some q) : acquire p s = s := by
  rw [acquire, ho]

theorem acquire_of_noRequest {p : Nat} {s : State} (hr : Store.read s.txReq p = none) : acquire p s = s := by
  rw [acquire, hr]
  cases s.txOwner <;> rfl

theorem releaseLock_of_owner {p : Nat} {s : State} (ho : s.txOwner = some p) :
    releaseLock s = { s with
      txOwner := none, txPhase := .idle, txReq := Store.erase s.txReq p, txDone := s.txDone ++ [p] } := by
  rw [releaseLock, ho]
  rfl

theorem releaseLock_of_free {s : State} (ho : s.txOwner = none) :
    releaseLock s = { s with txOwner := none, txPhase := .idle } := by rw [releaseLock, ho]

/-! ## What an instruction that reaches a next state did -/

theorem exec_dec_eq_next {a : DecAction} {s s' : State} (h : exec a.toInstr s = .next s') :
    s.fault = false ∧ s' = decEffect a s := by
  rwa [exec_dec, runDec_eq, whenEnabled_eq_next] at h

theorem exec_enc_eq_next {a : EncAction} {s s' : State} (h : exec a.toInstr s = .next s') :
    s.fault = false ∧ s' = encEffect a s := by
  rwa [exec_enc, runEnc_eq, whenEnabled_eq_next] at h

theorem exec_ev_eq_next {a : EvAction} {s s' : State} (h : exec a.toInstr s = .next s') :
    s.fault = false ∧ s' = evEffect a s := by
  rwa [exec_ev, whenEnabled_eq_next] at h

theorem execRdbuf_eq_next {t : BufType} {k : Word} {s s' : State} (h : execRdbuf t k s = .next s') :
    s.fault = false ∧ s' = portEffect (.rdbuf t k) s := by
  rw [execRdbuf] at h
  by_cases hf : s.fault = true
  · rw [if_pos hf] at h
    cases h
  rw [if_neg hf] at h
  refine ⟨by simpa using hf, ?_⟩
  rw [portEffect]
  by_cases hIn : (s.slot t).ready = true ∧ k.toNat < (s.slot t).len.toNat
  · rw [if_pos hIn] at h ⊢
    by_cases hCell : k.toNat < cap s.conf t
    · rw [if_pos hCell] at h
      exact (Host.Outcome.next.inj h).symm
    · rw [if_neg hCell] at h
      cases h
  · rw [if_neg hIn] at h ⊢
    exact (Host.Outcome.next.inj h).symm

theorem execRdreg_eq_next {n : Byte} {s s' : State} (h : execRdreg n s = .next s') :
    s.fault = false ∧ s' = portEffect (.rdreg n) s := by
  unfold execRdreg at h
  simp only [portEffect]
  split at h
  · next v hv => rw [hv]; exact whenEnabled_eq_next.mp h
  · cases h

theorem exec_port_eq_next {i : Instr} {s s' : State} (hi : i.isPort = true) (h : exec i s = .next s') :
    s.fault = false ∧ s' = portEffect i s := by
  cases i with
  | rx b => exact exec_dec_eq_next (exec_rx b s ▸ h)
  | consume t => exact whenEnabled_eq_next.mp h
  | rdbuf t k => exact execRdbuf_eq_next h
  | rdreg n => exact execRdreg_eq_next h
  | txSubmit p t payload => exact (whenProducer_eq_next.mp h).2
  | txAcquire p => exact (whenProducer_eq_next.mp h).2
  | txEmit => exact exec_enc_eq_next (exec_txEmit s ▸ h)
  | reservedOp0 => cases h
  | reservedOp8F lo => cases h
  | _ => exact absurd hi Bool.false_ne_true

/-- No instruction reaches a next state once a fault is recorded. -/
theorem running_of_exec_next {i : Instr} {s s' : State} (h : exec i s = .next s') : s.fault = false := by
  obtain ⟨a, rfl⟩ | ⟨a, rfl⟩ | ⟨a, rfl⟩ | hPort := i.format_cases
  · exact (exec_dec_eq_next h).1
  · exact (exec_enc_eq_next h).1
  · exact (exec_ev_eq_next h).1
  · exact (exec_port_eq_next hPort h).1

/-! ## What the receive path keeps -/

/-- `P` is kept by everything the decoder and the events of the types in `T` do: the writes of `DSTATE` and of
`FERR.ESC`, a fault, and each event in sequence. -/
structure RxClosed (T : FrameType → Prop) (P : State → Prop) : Prop where
  dstate : ∀ s d, P s → P { s with dstate := d }
  escError : ∀ s, P s → P s.setEscError
  raise : ∀ s c, P s → P (s.raiseFault c)
  begins : ∀ s t, T t → s.hopen = none → P s → P (hBegin t s)
  writes : ∀ s t b, T t → s.hopen = some t → P s → P (hWrite t b s)
  ends : ∀ s t, T t → s.hopen = some t → P s → P (hEnd t s)

theorem State.andThen_induction {P : State → Prop} {s : State} {k : State → State} (hs : P s) (hk : P s → P (k s)) :
    P (s.andThen k) := by
  unfold State.andThen
  split
  · exact hs
  · exact hk hs

namespace RxClosed

variable {T : FrameType → Prop} {P : State → Prop} (h : RxClosed T P) {s : State} {t : FrameType}
include h

theorem hBegin (ht : T t) (hs : P s) : P (hBegin t s) := by
  by_cases ho : s.hopen = none
  · exact h.begins s t ht ho hs
  · rw [hBegin_of_open ho]; exact h.raise s _ hs

theorem hWrite (ht : T t) (b : Byte) (hs : P s) : P (hWrite t b s) := by
  by_cases ho : s.hopen = some t
  · exact h.writes s t b ht ho hs
  · rw [hWrite_of_other ho]; exact h.raise s _ hs

theorem hEnd (ht : T t) (hs : P s) : P (hEnd t s) := by
  by_cases ho : s.hopen = some t
  · exact h.ends s t ht ho hs
  · rw [hEnd_of_other ho]; exact h.raise s _ hs

theorem andThen_dstate (hs : P s) (d : DState) : P (s.andThen fun u => { u with dstate := d }) :=
  State.andThen_induction hs (h.dstate s d)

theorem decEffect {a : DecAction} (ha : ∀ t, a.frame = some t → T t) (hs : P s) : P (decEffect a s) := by
  cases a with
  | badstate b => exact h.raise s _ hs
  | idleEnd => exact hs
  | idleDiag => exact h.hBegin (ha _ rfl) (h.dstate s _ hs)
  | idleCfg => exact h.hBegin (ha _ rfl) (h.dstate s _ hs)
  | idleOther b =>
    exact State.andThen_induction (h.hBegin (ha _ rfl) (h.dstate s _ hs)) (h.hWrite (ha _ rfl) b)
  | payEsc t => exact h.dstate s _ hs
  | payEnd t => exact h.andThen_dstate (h.hEnd (ha _ rfl) hs) _
  | payLit t b => exact h.hWrite (ha _ rfl) b hs
  | escSubend t => exact h.andThen_dstate (h.hWrite (ha _ rfl) _ hs) _
  | escSubesc t => exact h.andThen_dstate (h.hWrite (ha _ rfl) _ hs) _
  | escBad t b => exact h.andThen_dstate (h.hWrite (ha _ rfl) b (h.escError s hs)) _

theorem evEffect {a : EvAction} (ha : T (a.frame)) (hs : P s) : P (evEffect a s) := by
  cases a with
  | beginDiag => exact h.hBegin ha hs
  | beginBuf t => exact h.hBegin ha hs
  | writeDiag b => exact h.hWrite ha b hs
  | writeBuf t b => exact h.hWrite ha b hs
  | endDiag => exact h.hEnd ha hs
  | endBuf t => exact h.hEnd ha hs

end RxClosed

/-- A property that every frame type's events keep is kept by an `RX`. -/
theorem RxClosed.rx {P : State → Prop} (h : RxClosed (fun _ => True) P) {s : State} (b : Byte) (hs : P s) :
    P (portEffect (.rx b) s) :=
  h.decEffect (fun _ _ => trivial) hs

/-! ## What a path leaves alone (R187) -/

/-- What an operation of the receive path leaves alone. -/
structure RxFrame (s s' : State) : Prop where
  conf : s'.conf = s.conf
  txSide : s'.txSide = s.txSide
  pending : s'.pending = s.pending

/-- What an operation of the transmit path leaves alone. -/
structure TxFrame (s s' : State) : Prop where
  conf : s'.conf = s.conf
  rxSide : s'.rxSide = s.rxSide
  pending : s'.pending = s.pending

theorem RxFrame.refl (s : State) : RxFrame s s := ⟨rfl, rfl, rfl⟩

theorem TxFrame.refl (s : State) : TxFrame s s := ⟨rfl, rfl, rfl⟩

/-- The receive path writes its own registers and streams and the fault only. -/
theorem rxClosed_rxFrame (s : State) : RxClosed (fun _ => True) (RxFrame s) where
  dstate u d h := ⟨h.conf, h.txSide, h.pending⟩
  escError u h := ⟨h.conf, h.txSide, h.pending⟩
  raise u c h := ⟨h.conf, h.txSide, h.pending⟩
  begins u t _ ho h := by
    obtain ⟨e, c, i, hu, -⟩ := hBegin_closed (t := t) ho
    rw [hu]; exact ⟨h.conf, h.txSide, h.pending⟩
  writes u t b _ ho h := by
    obtain ⟨e, c, i, d, hu, -⟩ := hWrite_open (b := b) ho
    rw [hu]; exact ⟨h.conf, h.txSide, h.pending⟩
  ends u t _ ho h := by
    obtain ⟨c, i, n, hu⟩ := hEnd_open ho
    rw [hu]; exact ⟨h.conf, h.txSide, h.pending⟩

theorem hBegin_conf (t : FrameType) (s : State) : (hBegin t s).conf = s.conf :=
  ((rxClosed_rxFrame s).hBegin trivial (RxFrame.refl s)).conf

theorem hWrite_conf (t : FrameType) (b : Byte) (s : State) : (hWrite t b s).conf = s.conf :=
  ((rxClosed_rxFrame s).hWrite trivial b (RxFrame.refl s)).conf

theorem hEnd_conf (t : FrameType) (s : State) : (hEnd t s).conf = s.conf :=
  ((rxClosed_rxFrame s).hEnd trivial (RxFrame.refl s)).conf

theorem setSlot_rxFrame (s : State) (t : BufType) (v : Slot) : RxFrame s (s.setSlot t v) := by
  cases t <;> exact ⟨rfl, rfl, rfl⟩

theorem releaseLock_txFrame (s : State) : TxFrame s (releaseLock s) := by
  cases ho : s.txOwner with
  | none => rw [releaseLock_of_free ho]; exact ⟨rfl, rfl, rfl⟩
  | some p => rw [releaseLock_of_owner ho]; exact ⟨rfl, rfl, rfl⟩

theorem encEffect_txFrame (a : EncAction) (s : State) : TxFrame s (encEffect a s) := by
  cases a with
  | mark t a c =>
    simp only [encEffect]
    cases marker s.conf t <;> exact ⟨rfl, rfl, rfl⟩
  | close t c =>
    obtain ⟨hc, hr, hp⟩ := releaseLock_txFrame (s.emitWire s.conf.endByte)
    exact ⟨hc, hr, hp⟩
  | _ => exact ⟨rfl, rfl, rfl⟩

theorem submit_txFrame (p : Nat) (r : TxRequest) (s : State) : TxFrame s (submit p r s) := by
  cases hr : Store.read s.txReq p with
  | none => rw [submit_of_none hr]; exact ⟨rfl, rfl, rfl⟩
  | some q => rw [submit_of_some hr]; exact TxFrame.refl s

theorem acquire_txFrame (p : Nat) (s : State) : TxFrame s (acquire p s) := by
  cases hr : Store.read s.txReq p with
  | none => rw [acquire_of_noRequest hr]; exact TxFrame.refl s
  | some r =>
    cases ho : s.txOwner with
    | none => rw [acquire_of_free ho hr]; exact ⟨rfl, rfl, rfl⟩
    | some q => rw [acquire_of_taken ho]; exact TxFrame.refl s

theorem portEffect_rxFrame {i : Instr} (h : i.isTransmit = false) (s : State) : RxFrame s (portEffect i s) := by
  cases i with
  | rx b => exact (rxClosed_rxFrame s).rx b (RxFrame.refl s)
  | consume t => exact setSlot_rxFrame s t _
  | rdbuf t k =>
    simp only [portEffect]
    split_ifs <;> exact ⟨rfl, rfl, rfl⟩
  | rdreg n => exact ⟨rfl, rfl, rfl⟩
  | txSubmit p t payload => cases h
  | txAcquire p => cases h
  | txEmit => cases h
  | _ => exact RxFrame.refl s

theorem portEffect_txFrame {i : Instr} (h : i.isTransmit = true) (s : State) : TxFrame s (portEffect i s) := by
  cases i with
  | txSubmit p t payload => exact submit_txFrame p _ s
  | txAcquire p => exact acquire_txFrame p s
  | txEmit => exact encEffect_txFrame _ s
  | _ => cases h

theorem portEffect_conf (i : Instr) (s : State) : (portEffect i s).conf = s.conf := by
  cases h : i.isTransmit
  · exact (portEffect_rxFrame h s).conf
  · exact (portEffect_txFrame h s).conf

theorem portEffect_pending (i : Instr) (s : State) : (portEffect i s).pending = s.pending := by
  cases h : i.isTransmit
  · exact (portEffect_rxFrame h s).pending
  · exact (portEffect_txFrame h s).pending

theorem exec_conf {i : Instr} {s s' : State} (h : exec i s = .next s') : s'.conf = s.conf := by
  obtain ⟨a, rfl⟩ | ⟨a, rfl⟩ | ⟨a, rfl⟩ | hPort := i.format_cases
  · rw [(exec_dec_eq_next h).2]
    exact ((rxClosed_rxFrame s).decEffect (fun _ _ => trivial) (RxFrame.refl s)).conf
  · rw [(exec_enc_eq_next h).2]
    exact (encEffect_txFrame a s).conf
  · rw [(exec_ev_eq_next h).2]
    exact ((rxClosed_rxFrame s).evEffect trivial (RxFrame.refl s)).conf
  · rw [(exec_port_eq_next hPort h).2]
    exact portEffect_conf i s

/-- Settles O11: a step waits, raises PROTOCOL or runs an instruction, and none of these writes the configuration. -/
theorem stepKeepsTheConfiguration : Obligations.StepKeepsTheConfiguration := by
  intro s s' h
  obtain ⟨-, -, ⟨-, rfl⟩ | ⟨w, before, after, -, -, ⟨ew, e, -, -, rfl⟩ | ⟨i, -, -, hExec⟩⟩⟩ := step_cases h
  · rfl
  · rfl
  · have hConf := exec_conf hExec
    exact hConf

/-! ## A path does not read the other -/

/-- The receive path of a state alone: everything else but the configuration and `FAULT` at its reset value. -/
def State.rxPart (s : State) : State :=
  { State.constructed s.conf with
    dstate := s.dstate, hopen := s.hopen, ferr := s.ferr, cfgSlot := s.cfgSlot, ipSlot := s.ipSlot, ev := s.ev
    diagOut := s.diagOut, notify := s.notify, fault := s.fault }

/-- The transmit path of a state alone: everything else but the configuration and `FAULT` at its reset value. -/
def State.txPart (s : State) : State :=
  { State.constructed s.conf with
    txReq := s.txReq, txOwner := s.txOwner, txPhase := s.txPhase, txType := s.txType, txPayload := s.txPayload
    txPos := s.txPos, txSubb := s.txSubb, wire := s.wire, txDone := s.txDone, fault := s.fault }

theorem rxPart_eq_iff {s v : State} :
    v.rxPart = s.rxPart ↔ v.conf = s.conf ∧ v.fault = s.fault ∧ v.rxSide = s.rxSide := by
  simp only [State.rxPart, State.constructed, State.rxSide, State.mk.injEq, RxSide.mk.injEq]
  tauto

theorem txPart_eq_iff {s v : State} :
    v.txPart = s.txPart ↔ v.conf = s.conf ∧ v.fault = s.fault ∧ v.txSide = s.txSide := by
  simp only [State.txPart, State.constructed, State.txSide, State.mk.injEq, TxSide.mk.injEq]
  tauto

theorem setSlot_rxPart (s : State) (t : BufType) (v : Slot) : (s.setSlot t v).rxPart = s.rxPart.setSlot t v := by
  cases t <;> rfl

theorem slot_rxPart (s : State) (t : BufType) : s.rxPart.slot t = s.slot t := by cases t <;> rfl

theorem hBegin_rxPart (t : FrameType) (s : State) : (hBegin t s).rxPart = (hBegin t s.rxPart).rxPart := by
  by_cases ho : s.hopen = none
  · cases t with
    | diag => rw [hBegin, beginDiag_of_closed ho, beginDiag_of_closed (s := s.rxPart) ho]; rfl
    | buf t =>
      rw [hBegin, beginBuf_of_closed ho, beginBuf_of_closed (s := s.rxPart) ho, setSlot_rxPart, setSlot_rxPart,
        slot_rxPart]
      rfl
  · rw [hBegin_of_open ho, hBegin_of_open (s := s.rxPart) ho]; rfl

theorem writeBuf_rxPart (t : BufType) (b : Byte) (s : State) (ho : s.hopen = some (.buf t)) :
    (writeBuf t b s).rxPart = (writeBuf t b s.rxPart).rxPart := by
  have ho' : s.rxPart.hopen = some (.buf t) := ho
  cases hb : s.ferr.busy
  · by_cases hc : (s.slot t).idx.toNat < cap s.conf t
    · rw [writeBuf_of_room ho hb hc, writeBuf_of_room ho' hb (by rw [slot_rxPart]; exact hc)]
      simp only [State.appendByte, setSlot_rxPart, State.emitEv_slot, slot_rxPart]
      rfl
    · rw [writeBuf_of_full ho hb hc, writeBuf_of_full ho' hb (by rw [slot_rxPart]; exact hc)]
      rfl
  · rw [writeBuf_of_busy ho hb, writeBuf_of_busy ho' hb]; rfl

theorem hWrite_rxPart (t : FrameType) (b : Byte) (s : State) :
    (hWrite t b s).rxPart = (hWrite t b s.rxPart).rxPart := by
  by_cases ho : s.hopen = some t
  · cases t with
    | diag => rw [hWrite, writeDiag_of_open ho, writeDiag_of_open (s := s.rxPart) ho]; rfl
    | buf t => exact writeBuf_rxPart t b s ho
  · rw [hWrite_of_other ho, hWrite_of_other (s := s.rxPart) ho]; rfl

theorem hEnd_rxPart (t : FrameType) (s : State) : (hEnd t s).rxPart = (hEnd t s.rxPart).rxPart := by
  by_cases ho : s.hopen = some t
  · cases t with
    | diag => rw [hEnd, endDiag_of_open ho, endDiag_of_open (s := s.rxPart) ho]; rfl
    | buf t =>
      have ho' : s.rxPart.hopen = some (.buf t) := ho
      cases hd : delivers s.conf s.ferr
      · rw [hEnd, endBuf_of_dropped ho hd, endBuf_of_dropped ho' hd]; rfl
      · rw [hEnd, endBuf_of_delivered ho hd, endBuf_of_delivered ho' hd, slot_rxPart]
        cases t <;> rfl
  · rw [hEnd_of_other ho, hEnd_of_other (s := s.rxPart) ho]; rfl

/-- Where the parts agree after each of two effects, they agree after the one followed by the other. -/
theorem andThen_rxPart {u v : State} {k : State → State} (h : u.rxPart = v.rxPart)
    (hk : ∀ s : State, (k s).rxPart = (k s.rxPart).rxPart) : (u.andThen k).rxPart = (v.andThen k).rxPart := by
  have hFault : u.fault = v.fault := (rxPart_eq_iff.mp h).2.1
  cases hv : v.fault
  · rw [State.andThen_running hv, State.andThen_running (hFault.trans hv), hk u, h, ← hk v]
  · rw [State.andThen_stopped hv, State.andThen_stopped (hFault.trans hv), h]

theorem decEffect_rxPart (a : DecAction) (s : State) : (decEffect a s).rxPart = (decEffect a s.rxPart).rxPart := by
  cases a with
  | badstate b => rfl
  | idleEnd => rfl
  | idleDiag => exact hBegin_rxPart _ _
  | idleCfg => exact hBegin_rxPart _ _
  | idleOther b => exact andThen_rxPart (hBegin_rxPart _ _) (hWrite_rxPart _ b)
  | payEsc t => rfl
  | payEnd t => exact andThen_rxPart (hEnd_rxPart t s) fun _ => rfl
  | payLit t b => exact hWrite_rxPart t b s
  | escSubend t => exact andThen_rxPart (hWrite_rxPart t _ s) fun _ => rfl
  | escSubesc t => exact andThen_rxPart (hWrite_rxPart t _ s) fun _ => rfl
  | escBad t b => exact andThen_rxPart (hWrite_rxPart t b s.setEscError) fun _ => rfl

theorem rx_rxPart (b : Byte) (s : State) :
    (portEffect (.rx b) s).rxPart = (portEffect (.rx b) s.rxPart).rxPart := decEffect_rxPart _ s

theorem releaseLock_txPart (s : State) : (releaseLock s).txPart = (releaseLock s.txPart).txPart := by
  cases ho : s.txOwner with
  | none => rw [releaseLock_of_free ho, releaseLock_of_free (s := s.txPart) ho]; rfl
  | some p => rw [releaseLock_of_owner ho, releaseLock_of_owner (s := s.txPart) ho]; rfl

theorem encEffect_txPart (a : EncAction) (s : State) : (encEffect a s).txPart = (encEffect a s.txPart).txPart := by
  cases a with
  | mark t a c =>
    have hConf : s.txPart.conf = s.conf := rfl
    simp only [encEffect, hConf]
    cases marker s.conf t <;> rfl
  | close t c => exact releaseLock_txPart (s.emitWire s.conf.endByte)
  | _ => rfl

theorem submit_txPart (p : Nat) (r : TxRequest) (s : State) : (submit p r s).txPart = (submit p r s.txPart).txPart := by
  cases hr : Store.read s.txReq p with
  | none => rw [submit_of_none hr, submit_of_none (s := s.txPart) hr]; rfl
  | some q => rw [submit_of_some hr, submit_of_some (s := s.txPart) hr]; rfl

theorem acquire_txPart (p : Nat) (s : State) : (acquire p s).txPart = (acquire p s.txPart).txPart := by
  cases hr : Store.read s.txReq p with
  | none => rw [acquire_of_noRequest hr, acquire_of_noRequest (s := s.txPart) hr]; rfl
  | some r =>
    cases ho : s.txOwner with
    | none => rw [acquire_of_free ho hr, acquire_of_free (s := s.txPart) ho hr]; rfl
    | some q => rw [acquire_of_taken ho, acquire_of_taken (s := s.txPart) ho]; rfl

theorem transmit_txPart {i : Instr} (hi : i.isTransmit = true) (s : State) :
    (portEffect i s).txPart = (portEffect i s.txPart).txPart := by
  cases i with
  | txSubmit p t payload => exact submit_txPart p _ s
  | txAcquire p => exact acquire_txPart p s
  | txEmit => exact encEffect_txPart _ s
  | _ => cases hi

/-- An `RX` in a state with the same receive path answers the same receive path. -/
theorem exec_rx_congr {b : Byte} {s s' v : State} (h : exec (.rx b) s = .next s') (hc : v.conf = s.conf)
    (hf : v.fault = s.fault) (hs : v.rxSide = s.rxSide) :
    ∃ v', exec (.rx b) v = .next v' ∧ v'.rxSide = s'.rxSide ∧ v'.txSide = v.txSide ∧ v'.fault = s'.fault := by
  obtain ⟨hRun, rfl⟩ := exec_port_eq_next rfl h
  have hPart : (portEffect (.rx b) v).rxPart = (portEffect (.rx b) s).rxPart := by
    rw [rx_rxPart b v, rxPart_eq_iff.mpr ⟨hc, hf, hs⟩, ← rx_rxPart b s]
  obtain ⟨-, hFault, hSide⟩ := rxPart_eq_iff.mp hPart
  exact ⟨_, exec_rx_running (hf.trans hRun) b, hSide, (portEffect_rxFrame rfl v).txSide, hFault⟩

/-- An operation of the transmit path has a next state under the configuration that gave it one. -/
theorem exec_transmit_running {i : Instr} {s s' v : State} (hi : i.isTransmit = true)
    (h : exec i s = .next s') (hc : v.conf = s.conf) (hf : v.fault = false) : exec i v = .next (portEffect i v) := by
  cases i with
  | txSubmit p t payload =>
    obtain ⟨hp, -⟩ := whenProducer_eq_next.mp h
    exact exec_txSubmit hf (hc ▸ hp) t payload
  | txAcquire p =>
    obtain ⟨hp, -⟩ := whenProducer_eq_next.mp h
    exact exec_txAcquire hf (hc ▸ hp)
  | txEmit => exact exec_txEmit_running hf
  | _ => cases hi

/-- An operation of the transmit path in a state with the same transmit path answers the same transmit path. -/
theorem exec_transmit_congr {i : Instr} {s s' v : State} (hi : i.isTransmit = true)
    (h : exec i s = .next s') (hc : v.conf = s.conf) (hf : v.fault = s.fault) (hs : v.txSide = s.txSide) :
    ∃ v', exec i v = .next v' ∧ v'.txSide = s'.txSide ∧ v'.rxSide = v.rxSide ∧ v'.fault = s'.fault := by
  obtain ⟨hRun, rfl⟩ := exec_port_eq_next (Instr.isPort_of_isTransmit hi) h
  have hPart : (portEffect i v).txPart = (portEffect i s).txPart := by
    rw [transmit_txPart hi v, txPart_eq_iff.mpr ⟨hc, hf, hs⟩, ← transmit_txPart hi s]
  obtain ⟨-, hFault, hSide⟩ := txPart_eq_iff.mp hPart
  exact ⟨_, exec_transmit_running hi h hc (hf.trans hRun), hSide, (portEffect_txFrame hi v).rxSide, hFault⟩

/-- The byte source drives `RX` alone, the consumers drive no operation of the transmit path, and the other agents no
other (R213). -/
theorem drivenBy_cases {a : Agent} {i : Instr} (h : i.drivenBy a = true) :
    (a = .byteSource ∧ ∃ b, i = .rx b) ∨ ((∃ t, a = .consumer t) ∧ i.isPort = true ∧ i.isTransmit = false) ∨
      (a ≠ .byteSource ∧ (∀ t, a ≠ .consumer t) ∧ i.isTransmit = true) := by
  cases i with
  | rx b => exact .inl ⟨of_decide_eq_true h, b, rfl⟩
  | consume t => exact .inr (.inl ⟨⟨t, of_decide_eq_true h⟩, rfl, rfl⟩)
  | rdbuf t k => exact .inr (.inl ⟨⟨t, of_decide_eq_true h⟩, rfl, rfl⟩)
  | rdreg n =>
    obtain ha | ha : a = .consumer .cfg ∨ a = .consumer .ip := by simpa [Instr.drivenBy] using h
    · exact .inr (.inl ⟨⟨_, ha⟩, rfl, rfl⟩)
    · exact .inr (.inl ⟨⟨_, ha⟩, rfl, rfl⟩)
  | txSubmit p t payload =>
    obtain rfl : a = .producer p := of_decide_eq_true h
    exact .inr (.inr ⟨nofun, nofun, rfl⟩)
  | txAcquire p =>
    obtain rfl : a = .arbiter := of_decide_eq_true h
    exact .inr (.inr ⟨nofun, nofun, rfl⟩)
  | txEmit =>
    obtain rfl : a = .byteSink := of_decide_eq_true h
    exact .inr (.inr ⟨nofun, nofun, rfl⟩)
  | _ => cases h

/-- Settles O31: the agent decides the path its operation is of; that path leaves the other alone, and reads nothing of
it. -/
theorem thePathsShareNoState : Obligations.ThePathsShareNoState := by
  intro a i s s' ha h
  obtain ⟨rfl, b, rfl⟩ | ⟨⟨t, rfl⟩, hPort, hi⟩ | ⟨hSource, hConsumer, hi⟩ := drivenBy_cases ha
  · obtain ⟨-, hs'⟩ := exec_port_eq_next rfl h
    refine ⟨fun _ => hs' ▸ (portEffect_rxFrame rfl s).txSide, fun _ v hc hf hv => exec_rx_congr h hc hf hv, ?_⟩
    rintro (⟨p, hp⟩ | hp | hp) <;> cases hp
  · obtain ⟨-, hs'⟩ := exec_port_eq_next hPort h
    refine ⟨fun _ => hs' ▸ (portEffect_rxFrame hi s).txSide, nofun, ?_⟩
    rintro (⟨p, hp⟩ | hp | hp) <;> cases hp
  · obtain ⟨-, hs'⟩ := exec_port_eq_next (Instr.isPort_of_isTransmit hi) h
    refine ⟨?_, fun hp => absurd hp hSource, fun _ =>
      ⟨hs' ▸ (portEffect_txFrame hi s).rxSide, fun v hc hf hv => exec_transmit_congr hi h hc hf hv⟩⟩
    rintro (hp | ⟨t, hp⟩)
    · exact absurd hp hSource
    · exact absurd hp (hConsumer t)

end Sys2Proof.Machine
end

section
/-! The decoder against its transition table (40_decoder.md R107 to R115): what an `RX` does where `HOPEN` agrees with
`DSTATE`, state by state. O18 to O22 from that. -/

namespace Sys2Proof.Machine

/-! ## The row an `RX` selects in the escaped states -/

theorem exec_rx_of_esc {s : State} {t : FrameType} (h : s.dstate = .esc t) (b : Byte) :
    exec (.rx b) s = exec
      (if b = s.conf.escEnd then .rxEscSubend t else if b = s.conf.escEsc then .rxEscSubesc t
        else .rxEscBad t b) s := by
  rw [exec_rx, decodeDec_rxWord, h]
  dsimp only
  split_ifs <;> rfl

theorem exec_writeEvent {s : State} (h : s.fault = false) (t : FrameType) (b : Byte) :
    exec (writeEvent t b) s = .next (hWrite t b s) := by
  cases t <;> exact whenEnabled_running h _

theorem exec_rxPayLit {s : State} (h : s.fault = false) (t : FrameType) (b : Byte) :
    exec (.rxPayLit t b) s = .next (hWrite t b s) := exec_dec_running h (.payLit t b)

theorem exec_rxEscSubend {s : State} (h : s.fault = false) (t : FrameType) :
    exec (.rxEscSubend t) s = .next ((hWrite t s.conf.endByte s).andThen fun u => { u with dstate := .pay t }) :=
  exec_dec_running h (.escSubend t)

theorem exec_rxEscSubesc {s : State} (h : s.fault = false) (t : FrameType) :
    exec (.rxEscSubesc t) s = .next ((hWrite t s.conf.escByte s).andThen fun u => { u with dstate := .pay t }) :=
  exec_dec_running h (.escSubesc t)

theorem hWrite_fault_of_open {t : FrameType} {b : Byte} {s : State} (h : s.hopen = some t) :
    (hWrite t b s).fault = s.fault := by
  obtain ⟨e, c, i, d, hs, -⟩ := hWrite_open (b := b) h
  rw [hs]

/-- In sequence a write event raises nothing, so what stands after it follows. -/
theorem hWrite_andThen_of_open {t : FrameType} {b : Byte} {s : State} (hf : s.fault = false) (h : s.hopen = some t)
    (k : State → State) : (hWrite t b s).andThen k = k (hWrite t b s) :=
  State.andThen_running ((hWrite_fault_of_open h).trans hf) k

/-- Settles O18: the state and the byte select the row; in sequence its write event runs and the write of `DSTATE`
follows, out of sequence the fault stops the row before that write. -/
theorem payloadByteIsDelivered : Obligations.PayloadByteIsDelivered := by
  intro s t b hf hc
  refine ⟨fun hd hb => ?_, fun hd => ⟨?_, ?_⟩, fun hd hb => ?_, fun ho => ?_, fun ho => ?_⟩
  · obtain ⟨hEsc, hEnd⟩ := Config.isLiteral_iff.mp hb
    rw [exec_rx_of_pay hd, if_neg hEsc, if_neg hEnd]
  · rw [exec_rx_of_esc hd, if_pos rfl]
  · rw [exec_rx_of_esc hd, if_neg (Config.wf_subst hc).symm, if_pos rfl]
  · obtain ⟨hEnd, hEsc⟩ := Config.isEscapeViolation_iff.mp hb
    rw [exec_rx_of_esc hd, if_neg hEnd, if_neg hEsc]
  · refine ⟨⟨_, exec_writeEvent hf t b, exec_rxPayLit hf t b⟩, ⟨_, exec_writeEvent hf t _, ?_⟩,
      ⟨_, exec_writeEvent hf t _, ?_⟩, ⟨_, exec_writeEvent (s := s.setEscError) hf t b, ?_⟩⟩
    · rw [exec_rxEscSubend hf, hWrite_andThen_of_open hf ho]
    · rw [exec_rxEscSubesc hf, hWrite_andThen_of_open hf ho]
    · rw [exec_rxEscBad hf, hWrite_andThen_of_open (s := s.setEscError) hf ho]
  · refine ⟨?_, ?_, ?_, exec_rxEscBad_of_other hf ho b⟩
    · rw [exec_rxPayLit hf, hWrite_of_other ho, State.raiseFault]
    · rw [exec_rxEscSubend hf, hWrite_of_other ho, State.andThen_raised, State.raiseFault]
    · rw [exec_rxEscSubesc hf, hWrite_of_other ho, State.andThen_raised, State.raiseFault]

/-- Settles O19: the unused state selects RX_BADSTATE, which raises. -/
theorem unusedDecoderStateFaults : Obligations.UnusedDecoderStateFaults := by
  intro s b hf
  have hRaise : exec (.rxBadstate b) s = .next { s with fault := true, faultCause := some .badDstate } :=
    exec_rxBadstate hf b
  exact ⟨hRaise, fun hd => (exec_rx_of_unused hd b).trans hRaise⟩

/-! ## An action in sequence -/

/-- From `s` to `s'` the decoder went to state `d` and issued the events `es`, nothing was raised, and the open frame is
the one `d` names. -/
structure Follows (s s' : State) (d : DState) (es : List Event) : Prop where
  fault : s'.fault = s.fault
  cause : s'.faultCause = s.faultCause
  dstate : s'.dstate = d
  ev : s'.ev = s.ev ++ es
  hopen : s'.hopen = d.frame

theorem follows_begin {s : State} (ho : s.hopen = none) (t : FrameType) :
    Follows s (hBegin t { s with dstate := .pay t }) (.pay t) [.beginFrame t] := by
  obtain ⟨e, c, i, hs, -⟩ := hBegin_closed (t := t) (s := { s with dstate := .pay t }) ho
  rw [hs]
  exact ⟨rfl, rfl, rfl, rfl, rfl⟩

theorem follows_write {s : State} {t : FrameType} (ho : s.hopen = some t) (hd : s.dstate.frame = some t) (b : Byte) :
    Follows s (hWrite t b s) s.dstate [.writeByte t b] := by
  obtain ⟨e, c, i, d, hs, -⟩ := hWrite_open (b := b) ho
  rw [hs]
  exact ⟨rfl, rfl, rfl, rfl, ho.trans hd.symm⟩

theorem follows_substitute {s : State} {t : FrameType} (hf : s.fault = false) (ho : s.hopen = some t) (b : Byte) :
    Follows s ((hWrite t b s).andThen fun u => { u with dstate := .pay t }) (.pay t) [.writeByte t b] := by
  rw [hWrite_andThen_of_open hf ho]
  obtain ⟨e, c, i, d, hs, -⟩ := hWrite_open (b := b) ho
  rw [hs]
  exact ⟨rfl, rfl, rfl, rfl, ho⟩

theorem follows_end {s : State} {t : FrameType} (hf : s.fault = false) (ho : s.hopen = some t) :
    Follows s ((hEnd t s).andThen fun u => { u with dstate := .idle }) .idle [.endFrame t s.ferr] := by
  rw [State.andThen_running ((hEnd_fault_of_open ho).trans hf)]
  obtain ⟨c, i, n, hs⟩ := hEnd_open ho
  rw [hs]
  exact ⟨rfl, rfl, rfl, rfl, rfl⟩

theorem follows_firstByte {s : State} (hf : s.fault = false) (ho : s.hopen = none) (t : FrameType) (b : Byte) :
    Follows s ((hBegin t { s with dstate := .pay t }).andThen (hWrite t b)) (.pay t)
      [.beginFrame t, .writeByte t b] := by
  have hBegun := follows_begin ho t
  have hWritten := follows_write hBegun.hopen (by rw [hBegun.dstate]; rfl) b
  rw [State.andThen_running (hBegun.fault.trans hf)]
  exact ⟨hWritten.fault.trans hBegun.fault, hWritten.cause.trans hBegun.cause, hWritten.dstate.trans hBegun.dstate,
    by rw [hWritten.ev, hBegun.ev, List.append_assoc]; rfl, by rw [hWritten.hopen, hBegun.dstate]⟩

/-! ## The table (R113) -/

theorem decoderStep_idle (c : Config) (b : Byte) (e : ErrorSet) :
    decoderStep c .idle b e =
      if b = c.endByte then (.idle, []) else if b = c.diagMarker then (.pay .diag, [.beginFrame .diag])
      else if b = c.cfgMarker then (.pay (.buf .cfg), [.beginFrame (.buf .cfg)])
      else (.pay (.buf .ip), [.beginFrame (.buf .ip), .writeByte (.buf .ip) b]) := rfl

theorem decoderStep_pay (c : Config) (t : FrameType) (b : Byte) (e : ErrorSet) :
    decoderStep c (.pay t) b e =
      if b = c.escByte then (.esc t, []) else if b = c.endByte then (.idle, [.endFrame t e])
      else (.pay t, [.writeByte t b]) := rfl

theorem decoderStep_esc (c : Config) (t : FrameType) (b : Byte) (e : ErrorSet) :
    decoderStep c (.esc t) b e =
      if b = c.escEnd then (.pay t, [.writeByte t c.endByte])
      else if b = c.escEsc then (.pay t, [.writeByte t c.escByte]) else (.pay t, [.writeByte t b]) := rfl

/-- The registers of the decoder are legal and agree (R21, R22). -/
structure Sequenced (s : State) : Prop where
  legalState : s.dstate ≠ .unused
  openFrame : s.hopen = s.dstate.frame

theorem rx_follows {s : State} (hf : s.fault = false) (h : Sequenced s) (b : Byte) :
    Follows s (portEffect (.rx b) s) (decoderStep s.conf s.dstate b s.ferr).1
      (decoderStep s.conf s.dstate b s.ferr).2 := by
  have ho := h.openFrame
  rw [portEffect, decodeDec_rxWord]
  cases hd : s.dstate with
  | unused => exact absurd hd h.legalState
  | idle =>
    rw [hd] at ho
    rw [decoderStep_idle]
    dsimp only
    split_ifs
    · exact ⟨rfl, rfl, hd, (List.append_nil _).symm, ho⟩
    · exact follows_begin ho .diag
    · exact follows_begin ho (.buf .cfg)
    · exact follows_firstByte hf ho (.buf .ip) b
  | pay t =>
    rw [hd] at ho
    rw [decoderStep_pay]
    dsimp only
    split_ifs
    · exact ⟨rfl, rfl, rfl, (List.append_nil _).symm, ho⟩
    · exact follows_end hf ho
    · exact hd ▸ follows_write ho (by rw [hd]; rfl) b
  | esc t =>
    rw [hd] at ho
    rw [decoderStep_esc]
    dsimp only
    split_ifs
    · exact follows_substitute hf ho _
    · exact follows_substitute hf ho _
    · obtain ⟨hFault, hCause, hState, hEv, hOpen⟩ := follows_substitute (s := s.setEscError) hf ho b
      exact ⟨hFault, hCause, hState, hEv, hOpen⟩

/-- The next state is never the unused one. -/
theorem decoderStep_legal {c : Config} {d : DState} (h : d ≠ .unused) (b : Byte) (e : ErrorSet) :
    (decoderStep c d b e).1 ≠ .unused := by
  cases d with
  | unused => exact absurd rfl h
  | idle => rw [decoderStep_idle]; split_ifs <;> simp
  | pay t => rw [decoderStep_pay]; split_ifs <;> simp
  | esc t => rw [decoderStep_esc]; split_ifs <;> simp

/-- An `RX` keeps the decoder's registers legal and in agreement. -/
theorem rx_sequenced {s : State} (hf : s.fault = false) (h : Sequenced s) (b : Byte) :
    Sequenced (portEffect (.rx b) s) := by
  have hFollows := rx_follows hf h b
  exact ⟨hFollows.dstate ▸ decoderStep_legal h.legalState b s.ferr, by rw [hFollows.hopen, hFollows.dstate]⟩

/-- The record of an escape violation outlives the write event (R110). -/
theorem escBad_esc {s : State} (t : FrameType) (b : Byte) : (decEffect (.escBad t b) s).ferr.esc = true := by
  have hWritten : (hWrite t b s.setEscError).ferr.esc = true := by
    by_cases ho : s.hopen = some t
    · obtain ⟨e, c, i, d, hs, rfl | ⟨rfl, -⟩⟩ := hWrite_open (s := s.setEscError) (b := b) ho
      · rw [hs]; rfl
      · rw [hs]; rfl
    · rw [hWrite_of_other (s := s.setEscError) ho]; rfl
  exact State.andThen_induction (P := fun u => u.ferr.esc = true) hWritten id

/-- Settles O20: the table's row for the state and the byte. -/
theorem decoderFollowsTheTransitionTable : Obligations.DecoderFollowsTheTransitionTable := by
  intro s b hf hd ho
  have hFollows := rx_follows hf ⟨hd, ho⟩ b
  refine ⟨_, exec_rx_running hf b, hFollows.fault.trans hf, hFollows.dstate, hFollows.ev,
    by rw [hFollows.hopen, hFollows.dstate], fun t ht hb => ?_⟩
  obtain ⟨hEnd, hEsc⟩ := Config.isEscapeViolation_iff.mp hb
  rw [portEffect, decodeDec_rxWord, ht]
  dsimp only
  rw [if_neg hEnd, if_neg hEsc]
  exact escBad_esc t b

/-- Settles O21: the events are the table's, counted row by row. -/
theorem eventsPerByte : Obligations.EventsPerByte := by
  intro s b hf hc hd ho
  refine ⟨_, _, exec_rx_running hf b, (rx_follows hf ⟨hd, ho⟩ b).ev, fun hs hb => ?_, fun t hs hb => ?_,
    fun hs hb => ?_, fun hIdle hEsc => ?_⟩
  · rw [hs, decoderStep_idle, if_pos hb]
  · rw [hs, decoderStep_pay, if_pos hb]
  · obtain ⟨hEnd, hDiag, hCfg⟩ := Config.isIdleOther_iff.mp hb
    rw [hs, decoderStep_idle, if_neg hEnd, if_neg hDiag, if_neg hCfg]
  · cases hs : s.dstate with
    | unused => exact absurd hs hd
    | idle =>
      obtain ⟨hEnd, hMarker⟩ : b ≠ s.conf.endByte ∧ ¬ s.conf.isIdleOther b = true := by simpa [hs] using hIdle
      rw [Config.isIdleOther_iff] at hMarker
      rw [decoderStep_idle, if_neg hEnd]
      split_ifs with hDiag hCfg
      · rfl
      · rfl
      · exact absurd ⟨hEnd, hDiag, hCfg⟩ hMarker
    | pay t =>
      have hb : b ≠ s.conf.escByte := fun hb => hEsc ⟨hb, t, hs⟩
      rw [decoderStep_pay, if_neg hb]
      split_ifs <;> rfl
    | esc t =>
      rw [decoderStep_esc]
      split_ifs <;> rfl

/-- From IDLE and from a payload state the delimiter leads to IDLE. -/
theorem decoderStep_end {c : Config} (hc : c.wf = true) {d : DState} (hd : d = .idle ∨ ∃ t, d = .pay t)
    (e : ErrorSet) : (decoderStep c d c.endByte e).1 = .idle := by
  obtain rfl | ⟨t, rfl⟩ := hd
  · rw [decoderStep_idle, if_pos rfl]
  · rw [decoderStep_pay, if_neg (Config.wf_end_esc hc), if_pos rfl]

/-- After ESC the delimiter is no substitute (WF3), so it is delivered. -/
theorem decoderStep_escaped_end {c : Config} (hc : c.wf = true) (t : FrameType) (e : ErrorSet) :
    decoderStep c (.esc t) c.endByte e = (.pay t, [.writeByte t c.endByte]) := by
  rw [decoderStep_esc, if_neg (Config.wf_escEnd hc).1.symm, if_neg (Config.wf_escEsc hc).1.symm]

theorem rx_end_resynchronises {s : State} (hf : s.fault = false) (hc : s.conf.wf = true)
    (hs : s.dstate = .idle ∨ ∃ t, s.dstate = .pay t) (ho : s.hopen = s.dstate.frame) :
    ∃ s', exec (.rx s.conf.endByte) s = .next s' ∧ s'.fault = false ∧ s'.dstate = .idle ∧ s'.hopen = none := by
  have hLegal : s.dstate ≠ .unused := by
    obtain h | ⟨t, h⟩ := hs <;> simp [h]
  have hFollows := rx_follows hf ⟨hLegal, ho⟩ s.conf.endByte
  rw [decoderStep_end hc hs] at hFollows
  exact ⟨_, exec_rx_running hf _, hFollows.fault.trans hf, hFollows.dstate, hFollows.hopen⟩

/-- Settles O22: from an escaped state the delivered delimiter leads to the payload state, and the next one from
there. -/
theorem delimiterResynchronises : Obligations.DelimiterResynchronises := by
  intro s hf hc ho
  refine ⟨fun hs => rx_end_resynchronises hf hc hs ho, fun t ht => ?_⟩
  have hFollows := rx_follows hf ⟨by simp [ht], ho⟩ s.conf.endByte
  rw [ht, decoderStep_escaped_end hc] at hFollows
  have hConf : (portEffect (.rx s.conf.endByte) s).conf = s.conf := portEffect_conf _ s
  obtain ⟨s', hExec, hRun, hIdle, hClosed⟩ := rx_end_resynchronises (s := portEffect (.rx s.conf.endByte) s)
    (hFollows.fault.trans hf) (by rw [hConf, hc]) (.inr ⟨t, hFollows.dstate⟩) (by rw [hFollows.hopen, hFollows.dstate])
  rw [hConf] at hExec
  exact ⟨_, s', exec_rx_running hf _, hFollows.dstate, hFollows.ev, hExec, hRun, hIdle, hClosed⟩

end Sys2Proof.Machine
end

section
/-! The frame accumulator and the consumer port (41_handler.md): O23, O24, O26 and O27 from the handler's laws, and the
drains and reads of R140 and R141 with O32, O33, O34 and O37. -/

namespace Sys2Proof.Machine

theorem exec_hBeginDiag {s : State} (h : s.fault = false) : exec .hBeginDiag s = .next (hBegin .diag s) :=
  (whenEnabled_running h _ : execHBeginDiag s = _)

theorem exec_hBeginBuf {s : State} (h : s.fault = false) (t : BufType) :
    exec (.hBeginBuf t) s = .next (hBegin (.buf t) s) :=
  (whenEnabled_running h _ : execHBeginBuf t s = _)

/-- Settles O23: with no frame open the begin event passes the contract check; the two cases of R133 by `READY_t`. -/
theorem beginEventOpensAFrame : Obligations.BeginEventOpensAFrame := by
  intro s hf ho
  refine ⟨(exec_hBeginDiag hf).trans (congrArg _ (beginDiag_of_closed ho)), fun t =>
    ⟨_, exec_hBeginBuf hf t, (beginBuf_of_closed ho).trans ?_⟩⟩
  have hIdx : (if (s.slot t).ready then s.slot t else { s.slot t with idx := 0 }) =
      { s.slot t with idx := if (s.slot t).ready then (s.slot t).idx else 0 } := by split <;> rfl
  rw [hIdx]
  rfl

/-- Settles O24: with a diagnostic frame open the write event passes the contract check. -/
theorem diagnosticByteGoesToTheSink : Obligations.DiagnosticByteGoesToTheSink := by
  intro s b hf ho
  exact (exec_writeEvent hf .diag b).trans (congrArg _ (writeDiag_of_open ho))

theorem ErrorSet.code_eq_zero {e : ErrorSet} : e.code = 0#3 ↔ e = .empty := by
  obtain ⟨esc, ovf, busy⟩ := e
  revert esc ovf busy
  decide

theorem delivers_iff {c : Config} {e : ErrorSet} :
    delivers c e = true ↔ e.busy = false ∧ (e.code = 0#3 ∨ c.deliverErrored = true) := by
  simp [delivers, ErrorSet.code_eq_zero]

/-- Settles O26: R137's condition as `delivers` tests it decides between the two ends of a buffered frame. -/
theorem endEventDeliversOrDiscards : Obligations.EndEventDeliversOrDiscards := by
  intro s hf
  refine ⟨fun ho => (exec_endEvent hf .diag).trans (congrArg _ (endDiag_of_open ho)), fun t ho =>
    ⟨fun hBusy hClean => ?_, fun hDropped => ?_⟩⟩
  · refine ⟨_, exec_endEvent hf (.buf t), (endBuf_of_delivered ho (delivers_iff.mpr ⟨hBusy, hClean⟩)).trans ?_⟩
    cases t <;> rfl
  · have hNot : delivers s.conf s.ferr = false := by
      rw [← Bool.not_eq_true, delivers_iff]
      rintro ⟨hBusy, hClean⟩
      obtain h | ⟨hCode, hConf⟩ := hDropped
      · simp [hBusy] at h
      · exact hClean.elim hCode (by simp [hConf])
    exact (exec_endEvent hf (.buf t)).trans (congrArg _ (endBuf_of_dropped ho hNot))

/-- Settles O27: each event's contract check fails, and the raise is its only effect. -/
theorem eventOutOfSequenceRaisesProtocol : Obligations.EventOutOfSequenceRaisesProtocol := by
  intro s hf
  refine ⟨fun ho => ⟨exec_hBeginDiag_of_open hf ho, fun t => ?_⟩, fun t b ho => ⟨?_, ?_⟩⟩
  · exact (exec_hBeginBuf hf t).trans (congrArg _ (hBegin_of_open ho))
  · exact (exec_writeEvent hf t b).trans (congrArg _ (hWrite_of_other ho))
  · exact (exec_endEvent hf t).trans (congrArg _ (hEnd_of_other ho))

/-! ## The consumer port -/

/-- Settles O32: the drain replaces the slot by itself with `READY_t` cleared. -/
theorem consumeClearsReady : Obligations.ConsumeClearsReady := by
  intro s t hf
  refine ⟨⟨_, exec_consume hf t, rfl, by simp, by simp, by simp⟩, fun hr => ?_⟩
  have hSame : ({ s.slot t with ready := false } : Slot) = s.slot t := by rw [← hr]
  rw [exec_consume hf, hSame, State.setSlot_self]

theorem exec_rdbuf_of_inside {s : State} {t : BufType} {i : Word} (hf : s.fault = false)
    (hr : (s.slot t).ready = true) (hi : i.toNat < (s.slot t).len.toNat) (hc : i.toNat < cap s.conf t) :
    exec (.rdbuf t i) s = .next { s with reply := .byte (s.memRead t i.toNat) } := by
  change execRdbuf t i s = _
  rw [execRdbuf, if_neg (by simp [hf]), if_pos ⟨hr, hi⟩, if_pos hc, State.answer]

theorem exec_rdbuf_of_noCell {s : State} {t : BufType} {i : Word} (hf : s.fault = false)
    (hr : (s.slot t).ready = true) (hi : i.toNat < (s.slot t).len.toNat) (hc : cap s.conf t ≤ i.toNat) :
    exec (.rdbuf t i) s = .fault (.noSuchCell t i) := by
  change execRdbuf t i s = _
  rw [execRdbuf, if_neg (by simp [hf]), if_pos ⟨hr, hi⟩, if_neg hc.not_gt]

theorem memRead_of_written {s : State} {t : BufType} {k : Nat} {b : Byte} (h : (s.slot t).buf.read k = some b) :
    s.memRead t k = b := by rw [State.memRead, h, Option.getD_some]

/-- Settles O33: the three cases of R141, by `READY_t`, `LEN_t` and the capacity. -/
theorem rdbufReadsTheDeliveredFrame : Obligations.RdbufReadsTheDeliveredFrame := by
  intro s t i hf
  refine ⟨fun hr hi hc => ⟨⟨_, exec_rdbuf_of_inside hf hr hi hc⟩, fun b hb => ?_⟩, exec_rdbuf_of_noCell hf,
    fun hOut => exec_rdbuf_of_outside hf ?_⟩
  · rw [exec_rdbuf_of_inside hf hr hi hc, memRead_of_written hb]
  · rintro ⟨hr, hi⟩
    obtain h | h := hOut
    · simp [hr] at h
    · omega

theorem Inv.slotInv {s : State} (h : Inv s) (t : BufType) : SlotInv t s := by
  cases t
  · exact h.cfg
  · exact h.ip

/-- Settles O34: the invariant has every cell of a delivered frame written and its length within the capacity. -/
theorem deliveredBytesAreReadable : Obligations.DeliveredBytesAreReadable := by
  intro s t i hInv hf hr hi
  have hSlot := hInv.slotInv t
  obtain ⟨b, hb⟩ := Option.isSome_iff_exists.mp (hSlot.delivered hr _ hi)
  refine ⟨b, hb, ?_⟩
  rw [exec_rdbuf_of_inside hf hr hi (hi.trans_le hSlot.lenLe), memRead_of_written hb]

/-- A cell does not read as the last answer. -/
theorem memRead_answer (s : State) (v : Reply) (t : BufType) (k : Nat) : (s.answer v).memRead t k = s.memRead t k := by
  rw [State.memRead, State.answer_slot, State.memRead]

/-- Settles O37: the answer is the only field a read writes, and no read reads it. -/
theorem readsHaveNoSideEffect : Obligations.ReadsHaveNoSideEffect := by
  rintro s s' i (⟨t, k, rfl⟩ | ⟨n, rfl⟩) h hf'
  · have hf := running_of_exec_next h
    by_cases hIn : (s.slot t).ready = true ∧ k.toNat < (s.slot t).len.toNat
    · obtain ⟨hr, hk⟩ := hIn
      by_cases hc : k.toNat < cap s.conf t
      · rw [exec_rdbuf_of_inside hf hr hk hc] at h
        obtain rfl := Host.Outcome.next.inj h
        refine ⟨rfl, ?_⟩
        rw [← memRead_answer s (.byte (s.memRead t k.toNat))]
        exact exec_rdbuf_of_inside (s := s.answer (.byte (s.memRead t k.toNat))) hf (by simpa using hr)
          (by simpa using hk) hc
      · rw [exec_rdbuf_of_noCell hf hr hk (not_lt.mp hc)] at h
        cases h
    · rw [exec_rdbuf_of_outside hf hIn] at h
      obtain rfl := Host.Outcome.next.inj h
      cases hf'
  · have hf := running_of_exec_next h
    cases hv : register s n with
    | none =>
      rw [exec_rdreg_of_reserved hv] at h
      cases h
    | some v =>
      rw [exec_rdreg_of_register hf hv] at h
      obtain rfl := Host.Outcome.next.inj h
      exact ⟨rfl, exec_rdreg_of_register (s := s.answer (.word v)) hf hv⟩

end Sys2Proof.Machine
end

section
/-! The buffers' cells and the slots (20_memory.md R51, R53): where a write event stores, what every other effect leaves
in the buffers, and which slot an event of a type leaves alone. O28, O29 and O30 from that. -/

namespace Sys2Proof.Machine

/-! ## The slots each event leaves alone -/

theorem hBegin_slot_other {t : FrameType} {u : BufType} (h : t ≠ .buf u) (s : State) :
    (hBegin t s).slot u = s.slot u := by
  by_cases ho : s.hopen = none
  · cases t with
    | diag => rw [hBegin, beginDiag_of_closed ho]; cases u <;> rfl
    | buf v =>
      have hu : u ≠ v := fun hu => h (by rw [hu])
      rw [hBegin, beginBuf_of_closed ho, State.setSlot_slot_other _ _ hu]
      cases u <;> rfl
  · rw [hBegin_of_open ho, State.raiseFault_slot]

theorem hWrite_slot_other {t : FrameType} {u : BufType} (h : t ≠ .buf u) (b : Byte) (s : State) :
    (hWrite t b s).slot u = s.slot u := by
  by_cases ho : s.hopen = some t
  · cases t with
    | diag => rw [hWrite, writeDiag_of_open ho]; cases u <;> rfl
    | buf v =>
      have hu : u ≠ v := fun hu => h (by rw [hu])
      cases hb : s.ferr.busy
      · by_cases hc : (s.slot v).idx.toNat < cap s.conf v
        · rw [hWrite, writeBuf_of_room ho hb hc, State.appendByte_slot_other _ _ hu, State.emitEv_slot]
        · rw [hWrite, writeBuf_of_full ho hb hc, State.setOverflow_slot, State.emitEv_slot]
      · rw [hWrite, writeBuf_of_busy ho hb, State.emitEv_slot]
  · rw [hWrite_of_other ho, State.raiseFault_slot]

theorem hEnd_slot_other {t : FrameType} {u : BufType} (h : t ≠ .buf u) (s : State) :
    (hEnd t s).slot u = s.slot u := by
  by_cases ho : s.hopen = some t
  · cases t with
    | diag => rw [hEnd, endDiag_of_open ho]; cases u <;> rfl
    | buf v =>
      have hu : u ≠ v := fun hu => h (by rw [hu])
      cases hd : delivers s.conf s.ferr
      · rw [hEnd, endBuf_of_dropped ho hd]; cases u <;> rfl
      · rw [hEnd, endBuf_of_delivered ho hd, State.emitNotify_slot, State.setSlot_slot_other _ _ hu]
        cases u <;> rfl
  · rw [hEnd_of_other ho, State.raiseFault_slot]

/-- The events of the other types keep a slot. -/
theorem rxClosed_slot_other (u : BufType) (v : Slot) : RxClosed (fun t => t ≠ .buf u) (fun s => s.slot u = v) where
  dstate s d h := by rw [State.slot_dstate, h]
  escError s h := by rw [State.setEscError_slot, h]
  raise s c h := by rw [State.raiseFault_slot, h]
  begins s t ht _ h := by rw [hBegin_slot_other ht, h]
  writes s t b ht _ h := by rw [hWrite_slot_other ht, h]
  ends s t ht _ h := by rw [hEnd_slot_other ht, h]

theorem exec_dec_slot_other {a : DecAction} {t : FrameType} {u : BufType} {s s' : State} (hu : t ≠ .buf u)
    (ha : a.frame = some t) (h : exec a.toInstr s = .next s') : s'.slot u = s.slot u := by
  rw [(exec_dec_eq_next h).2]
  refine (rxClosed_slot_other u (s.slot u)).decEffect (fun v hv => ?_) rfl
  rw [← Option.some.inj (ha.symm.trans hv)]
  exact hu

theorem exec_ev_slot_other {a : EvAction} {u : BufType} {s s' : State} (hu : a.frame ≠ .buf u)
    (h : exec a.toInstr s = .next s') : s'.slot u = s.slot u := by
  rw [(exec_ev_eq_next h).2]
  exact (rxClosed_slot_other u (s.slot u)).evEffect hu rfl

theorem exec_consume_slot_other {v u : BufType} {s s' : State} (hu : u ≠ v)
    (h : exec (.consume v) s = .next s') : s'.slot u = s.slot u := by
  rw [(exec_port_eq_next rfl h).2]
  exact State.setSlot_slot_other s _ hu

/-- Settles O30: each instruction listed is a decoder action or an event of type `t`, or the drain of `t`. -/
theorem otherTypesRegistersStay : Obligations.OtherTypesRegistersStay := by
  rintro s s' t u b i hu (rfl | rfl | rfl | rfl | rfl | rfl | rfl | rfl | ⟨rfl, rfl | rfl⟩ | ⟨v, rfl, rfl | rfl⟩ |
    ⟨rfl, rfl⟩ | ⟨rfl, rfl⟩) h
  · cases t with
    | diag => exact exec_ev_slot_other (a := .endDiag) hu h
    | buf t => exact exec_ev_slot_other (a := .endBuf t) hu h
  · cases t with
    | diag => exact exec_ev_slot_other (a := .writeDiag b) hu h
    | buf t => exact exec_ev_slot_other (a := .writeBuf t b) hu h
  · exact exec_dec_slot_other (a := .payEsc t) hu rfl h
  · exact exec_dec_slot_other (a := .payEnd t) hu rfl h
  · exact exec_dec_slot_other (a := .payLit t b) hu rfl h
  · exact exec_dec_slot_other (a := .escSubend t) hu rfl h
  · exact exec_dec_slot_other (a := .escSubesc t) hu rfl h
  · exact exec_dec_slot_other (a := .escBad t b) hu rfl h
  · exact exec_ev_slot_other (a := .beginDiag) hu h
  · exact exec_dec_slot_other (a := .idleDiag) hu rfl h
  · exact exec_ev_slot_other (a := .beginBuf v) hu h
  · exact exec_consume_slot_other (fun huv => hu (by rw [huv])) h
  · exact exec_dec_slot_other (a := .idleCfg) hu rfl h
  · exact exec_dec_slot_other (a := .idleOther b) hu rfl h

/-! ## The buffers' cells -/

theorem writeStoresAt_buf {t : BufType} {s : State} {c : BufType × Nat} :
    writeStoresAt (.buf t) s = some c ↔
      s.ferr.busy = false ∧ (s.slot t).idx.toNat < cap s.conf t ∧ c = (t, (s.slot t).idx.toNat) := by
  rw [writeStoresAt, Option.ite_none_right_eq_some, and_assoc, Option.some.injEq, eq_comm (a := c)]

theorem writeStoresAt_setEscError (t : FrameType) (s : State) : writeStoresAt t s.setEscError = writeStoresAt t s := by
  cases t with
  | diag => rfl
  | buf t => simp [writeStoresAt]

/-- A begin event restarts an offset at most. -/
theorem hBegin_buf (t : FrameType) (u : BufType) (s : State) : ((hBegin t s).slot u).buf = (s.slot u).buf := by
  by_cases ht : t = .buf u
  · subst ht
    by_cases ho : s.hopen = none
    · rw [hBegin, beginBuf_of_closed ho, State.setSlot_slot]
      split <;> rfl
    · rw [hBegin_of_open ho, State.raiseFault_slot]
  · rw [hBegin_slot_other ht]

/-- An end event latches a length at most. -/
theorem hEnd_buf (t : FrameType) (u : BufType) (s : State) : ((hEnd t s).slot u).buf = (s.slot u).buf := by
  by_cases ht : t = .buf u
  · subst ht
    by_cases ho : s.hopen = some (.buf u)
    · cases hd : delivers s.conf s.ferr
      · rw [hEnd, endBuf_of_dropped ho hd]; cases u <;> rfl
      · rw [hEnd, endBuf_of_delivered ho hd, State.emitNotify_slot, State.setSlot_slot]
    · rw [hEnd_of_other ho, State.raiseFault_slot]
  · rw [hEnd_slot_other ht]

/-- A write event leaves every cell but the one it stores to. -/
theorem hWrite_read_other {t : FrameType} {b : Byte} {s : State} {u : BufType} {k : Nat}
    (h : writeStoresAt t s ≠ some (u, k)) : ((hWrite t b s).slot u).buf.read k = (s.slot u).buf.read k := by
  by_cases ht : t = .buf u
  · subst ht
    by_cases ho : s.hopen = some (.buf u)
    · cases hb : s.ferr.busy
      · by_cases hc : (s.slot u).idx.toNat < cap s.conf u
        · have hk : k ≠ (s.slot u).idx.toNat := fun hk => h (writeStoresAt_buf.mpr ⟨hb, hc, by rw [hk]⟩)
          rw [hWrite, writeBuf_of_room ho hb hc, State.appendByte_slot, State.emitEv_slot]
          exact Memory.read_write_other _ b hk
        · rw [hWrite, writeBuf_of_full ho hb hc, State.setOverflow_slot, State.emitEv_slot]
      · rw [hWrite, writeBuf_of_busy ho hb, State.emitEv_slot]
    · rw [hWrite_of_other ho, State.raiseFault_slot]
  · rw [hWrite_slot_other ht]

/-- A write event in sequence stores its byte. -/
theorem hWrite_read_stored {t : BufType} {s : State} {k : Nat} (ho : s.hopen = some (.buf t))
    (h : writeStoresAt (.buf t) s = some (t, k)) (b : Byte) :
    ((hWrite (.buf t) b s).slot t).buf.read k = some b := by
  obtain ⟨hb, hc, hk⟩ := writeStoresAt_buf.mp h
  have hk : k = (s.slot t).idx.toNat := congrArg Prod.snd hk
  rw [hWrite, writeBuf_of_room ho hb hc, State.appendByte_slot, State.emitEv_slot, hk]
  exact Memory.read_write_same _ _ b

theorem andThen_dstate_slot (s : State) (d : DState) (u : BufType) :
    (s.andThen fun v => { v with dstate := d }).slot u = s.slot u :=
  State.andThen_keeps (fun v => v.slot u) rfl (State.slot_dstate s d u)

/-- After a begin event in sequence the write event stores to cell 0, and only where the buffer is free. -/
theorem writeStoresAt_hBegin {t u : BufType} {s : State} {k : Nat} (ho : s.hopen = none)
    (h : writeStoresAt (.buf t) (hBegin (.buf t) s) = some (u, k)) : (s.slot t).ready = false ∧ u = t ∧ k = 0 := by
  obtain ⟨hb, -, hk⟩ := writeStoresAt_buf.mp h
  cases hr : (s.slot t).ready
  · rw [hBegin, beginBuf_of_free ho hr, State.setSlot_slot] at hk
    exact ⟨rfl, congrArg Prod.fst hk, congrArg Prod.snd hk⟩
  · rw [hBegin, beginBuf_of_busy ho hr] at hb
    cases hb

theorem idleOther_read_other {b : Byte} {s : State} {u : BufType} {k : Nat}
    (h : decStoresAt (.idleOther b) s ≠ some (u, k)) :
    ((decEffect (.idleOther b) s).slot u).buf.read k = (s.slot u).buf.read k := by
  have hBegun : ((hBegin (.buf .ip) { s with dstate := .pay (.buf .ip) }).slot u).buf.read k =
      (s.slot u).buf.read k := by rw [hBegin_buf, State.slot_dstate]
  by_cases ho : s.hopen = none
  · refine State.andThen_keeps (fun v => (v.slot u).buf.read k) (t := s) hBegun ?_
    refine (hWrite_read_other fun hStored => h ?_).trans hBegun
    obtain ⟨hr, rfl, rfl⟩ := writeStoresAt_hBegin (s := { s with dstate := .pay (.buf .ip) }) ho hStored
    exact if_neg (by simpa [State.slot] using hr)
  · rw [decEffect, hBegin_of_open (s := { s with dstate := .pay (.buf .ip) }) ho, State.andThen_raised,
      State.raiseFault_slot, State.slot_dstate]

/-- A decoder action leaves every cell but the one it stores to. -/
theorem decEffect_read_other {a : DecAction} {s : State} {u : BufType} {k : Nat}
    (h : decStoresAt a s ≠ some (u, k)) :
    ((decEffect a s).slot u).buf.read k = (s.slot u).buf.read k := by
  cases a with
  | badstate b => rw [decEffect, State.raiseFault_slot]
  | idleEnd => rfl
  | idleDiag => rw [decEffect, hBegin_buf, State.slot_dstate]
  | idleCfg => rw [decEffect, hBegin_buf, State.slot_dstate]
  | idleOther b => exact idleOther_read_other h
  | payEsc t => rw [decEffect, State.slot_dstate]
  | payEnd t => rw [decEffect, andThen_dstate_slot, hEnd_buf]
  | payLit t b => exact hWrite_read_other h
  | escSubend t => rw [decEffect, andThen_dstate_slot, hWrite_read_other h]
  | escSubesc t => rw [decEffect, andThen_dstate_slot, hWrite_read_other h]
  | escBad t b =>
    have hEsc : writeStoresAt t s.setEscError ≠ some (u, k) := by rw [writeStoresAt_setEscError]; exact h
    rw [decEffect, andThen_dstate_slot, hWrite_read_other hEsc, State.setEscError_slot]

theorem evEffect_read_other {a : EvAction} {s : State} {u : BufType} {k : Nat}
    (h : storesAt a.toInstr s ≠ some (u, k)) :
    ((evEffect a s).slot u).buf.read k = (s.slot u).buf.read k := by
  cases a with
  | beginDiag => rw [evEffect, hBegin_buf]
  | beginBuf t => rw [evEffect, hBegin_buf]
  | writeDiag b => exact hWrite_read_other (by simp [writeStoresAt])
  | writeBuf t b => exact hWrite_read_other h
  | endDiag => rw [evEffect, hEnd_buf]
  | endBuf t => rw [evEffect, hEnd_buf]

theorem slot_of_rxSide {s s' : State} (h : s'.rxSide = s.rxSide) (t : BufType) : s'.slot t = s.slot t := by
  obtain ⟨-, -, -, hCfg, hIp, -, -, -⟩ := RxSide.mk.injEq .. ▸ h
  cases t
  · exact hCfg
  · exact hIp

theorem portEffect_read_other {i : Instr} {s : State} {u : BufType} {k : Nat}
    (h : storesAt i s ≠ some (u, k)) :
    ((portEffect i s).slot u).buf.read k = (s.slot u).buf.read k := by
  cases hi : i.isTransmit
  case true => rw [slot_of_rxSide (portEffect_txFrame hi s).rxSide]
  cases i with
  | rx b => exact decEffect_read_other h
  | consume t =>
    by_cases ht : u = t
    · subst ht
      rw [portEffect, State.setSlot_slot]
    · rw [portEffect, State.setSlot_slot_other _ _ ht]
  | rdbuf t k =>
    rw [portEffect]
    split_ifs
    · rw [State.answer_slot]
    · rw [State.raiseFault_slot]
  | rdreg n => rw [portEffect, State.answer_slot]
  | txSubmit p t payload => cases hi
  | txAcquire p => cases hi
  | txEmit => cases hi
  | _ => rfl

/-- Settles O28: format by format, an effect leaves every cell but the one `storesAt` names. -/
theorem bytesOutsideTheStoredCellStay : Obligations.BytesOutsideTheStoredCellStay := by
  intro i s s' h t k hk
  obtain ⟨a, rfl⟩ | ⟨a, rfl⟩ | ⟨a, rfl⟩ | hPort := i.format_cases
  · rw [(exec_dec_eq_next h).2]
    have hDec : storesAt a.toInstr s = decStoresAt a s := by cases a <;> rfl
    exact decEffect_read_other (hDec ▸ hk)
  · rw [(exec_enc_eq_next h).2, slot_of_rxSide (encEffect_txFrame a s).rxSide]
  · rw [(exec_ev_eq_next h).2]
    exact evEffect_read_other hk
  · rw [(exec_port_eq_next hPort h).2]
    exact portEffect_read_other hk

/-- Settles O29: in sequence the write event of each row stores the byte delivered, and the write of `DSTATE` after it
leaves the buffer; the first byte of an IP frame goes to cell 0. -/
theorem storedCellHoldsTheDeliveredByte : Obligations.StoredCellHoldsTheDeliveredByte := by
  intro s t k b hf hc
  refine ⟨fun ho hk => ⟨⟨_, exec_hWriteBuf hf t b, hWrite_read_stored ho hk b⟩,
    ⟨_, exec_rxPayLit hf _ b, hWrite_read_stored ho hk b⟩, ⟨_, exec_rxEscBad hf _ b, ?_⟩,
    ⟨_, exec_rxEscSubend hf _, ?_⟩, ⟨_, exec_rxEscSubesc hf _, ?_⟩⟩, fun ho hk => ⟨_, exec_rxIdleOther hf b, ?_⟩⟩
  · rw [andThen_dstate_slot]
    exact hWrite_read_stored (s := s.setEscError) ho ((writeStoresAt_setEscError _ s).trans hk) b
  · rw [andThen_dstate_slot, hWrite_read_stored ho hk]
  · rw [andThen_dstate_slot, hWrite_read_stored ho hk]
  · cases hr : s.ipSlot.ready
    · have hCell : storesAt (.rxIdleOther b) s = some (.ip, 0) := if_neg (by simp [hr])
      obtain ⟨rfl, rfl⟩ : BufType.ip = t ∧ 0 = k := by simpa [hCell] using hk
      have hFree := beginBuf_writeBuf_of_free (b := b) (t := .ip) (s := { s with dstate := .pay (.buf .ip) }) hf ho hr
        (Config.wf_ipCap hc).1
      rw [hBegin]
      change ((State.andThen _ (writeBuf .ip b)).slot .ip).buf.read 0 = some b
      rw [hFree, State.setSlot_slot]
      exact Memory.read_write_same _ _ b
    · have hNone : storesAt (.rxIdleOther b) s = none := if_pos hr
      rw [hNone] at hk
      cases hk

end Sys2Proof.Machine
end

section
/-! The operations of the transmit path (42_encoder.md R172 to R182): submission, the lock, the closing delimiter, the
states of R181 and the held operations. O38, O39 and O42 to O46 from that. -/

namespace Sys2Proof.Machine

/-! ## Submission and the lock (R172, R173) -/

theorem exec_txSubmit_of_absent {s : State} {p : Nat} (hp : s.conf.nprod ≤ p) (t : FrameType) (payload : List Byte) :
    exec (.txSubmit p t payload) s = .refused (.illegalOperand (.noSuchProducer p)) :=
  if_neg hp.not_gt

/-- Settles O38: the request is written where the producer has none, and the write leaves every other key. -/
theorem submitRecordsTheRequest : Obligations.SubmitRecordsTheRequest := by
  intro s p t payload hf
  refine ⟨fun hp hr => ⟨_, exec_txSubmit hf hp t payload, ?_⟩, fun hp hr => ?_,
    fun hp => exec_txSubmit_of_absent hp _ _⟩
  · rw [submit_of_none hr]
    exact ⟨rfl, Store.read_write_same _ _ _, fun q hq => Store.read_write_other _ _ hq⟩
  · obtain ⟨r, hr⟩ := Option.ne_none_iff_exists'.mp hr
    rw [exec_txSubmit hf hp, submit_of_some hr]

theorem firstPhase_eq (t : FrameType) : firstPhase t = if t = .buf .ip then .body else .mark := by
  rcases t with _ | (_ | _) <;> rfl

/-- Where the lock is taken or the producer has no request, the acquisition has no effect. -/
theorem acquire_of_held {s : State} {p : Nat} (h : s.txOwner ≠ none ∨ Store.read s.txReq p = none) :
    acquire p s = s := by
  obtain ho | hr := h
  · obtain ⟨q, hq⟩ := Option.ne_none_iff_exists'.mp ho
    exact acquire_of_taken hq
  · exact acquire_of_noRequest hr

/-- Settles O39: the three cases of R173. -/
theorem acquireGrantsTheLock : Obligations.AcquireGrantsTheLock := by
  intro s p hf hp
  refine ⟨fun r ho hr => ?_, fun hHeld => ?_⟩
  · rw [exec_txAcquire hf hp, acquire_of_free ho hr, firstPhase_eq]
  · rw [exec_txAcquire hf hp, acquire_of_held hHeld]

/-! ## The closing delimiter (R180) -/

theorem exec_encClose {s : State} (hf : s.fault = false) (t : FrameType) (c : Byte) :
    exec (.encClose t c) s = .next (releaseLock (s.emitWire s.conf.endByte)) :=
  exec_enc_running hf (.close t c)

theorem txByte_of_exhausted {s : State} (h : s.txPos = s.txPayload.length) : txByte s = 0 :=
  if_pos (decide_eq_true h)

theorem exec_txEmit_of_exhausted {s : State} {t : FrameType} (hp : s.txPhase = .body) (ht : s.txType = some t)
    (h : s.txPos = s.txPayload.length) : exec .txEmit s = exec (.encClose t 0x00) s := by
  have hExhausted : txExhausted s = true := decide_eq_true h
  rw [exec_txEmit_of_body hp ht, if_pos hExhausted, txByte_of_exhausted h]

/-- Settles O42: the lock is released by its owner or by nobody, and an exhausted payload selects ENC_CLOSE. -/
theorem emitClosingDelimiter : Obligations.EmitClosingDelimiter := by
  intro s t c hf
  refine ⟨fun p ho => ⟨_, exec_encClose hf t c, ?_⟩, fun ho => ?_, exec_txEmit_of_exhausted⟩
  · rw [releaseLock_of_owner (s := s.emitWire s.conf.endByte) ho]
    exact ⟨rfl, Store.read_erase_same _ _, fun q hq => Store.read_erase_other _ hq⟩
  · rw [exec_encClose hf, releaseLock_of_free (s := s.emitWire s.conf.endByte) ho, ← ho]
    rfl

/-! ## Held operations and the states of R181 -/

theorem isHeld_txEmit {s : State} (hf : s.fault = false) : isHeld .txEmit s = decide (s.txPhase = .idle) := by
  simp [isHeld, hf]

theorem isHeld_txAcquire {s : State} (hf : s.fault = false) {p : Nat} (hp : p < s.conf.nprod) :
    isHeld (.txAcquire p) s = (s.txOwner.isSome || (Store.read s.txReq p).isNone) := by
  simp [isHeld, hf, hp]

theorem isHeld_txSubmit {s : State} (hf : s.fault = false) {p : Nat} (hp : p < s.conf.nprod) (t : FrameType)
    (payload : List Byte) : isHeld (.txSubmit p t payload) s = (Store.read s.txReq p).isSome := by
  simp [isHeld, hf, hp]

/-- In TX idle `emit_frame` has no operation to issue (R86). -/
theorem runProgram_emitFrame_idle {s : State} (h : s.txPhase = .idle) (n : Nat) :
    runProgram n [.emitFrame] s = .finished s := by
  have hIssue : issue s [.emitFrame] = none := by rw [issue, if_pos h, issue]
  rw [runProgram, hIssue]

/-- Settles O43: in TX idle the sequencer selects ENC_IDLE, which is held. -/
theorem emitInIdleIsHeld : Obligations.EmitInIdleIsHeld := by
  intro s t a c hf
  refine ⟨exec_enc_running hf (.idle t a c), fun h => ?_⟩
  have hHeld : isHeld .txEmit s = true := (isHeld_txEmit hf).trans (decide_eq_true h)
  exact ⟨hHeld, exec_held hHeld, runProgram_emitFrame_idle h⟩

theorem exec_encBadstateMarkip {s : State} (h : s.fault = false) (a : Bool) (c : Byte) :
    exec (.encBadstateMarkip a c) s = .next (s.raiseFault .badTxstate) :=
  exec_enc_running h (.badstateMarkip a c)

theorem exec_txEmit_of_markip {s : State} (hp : s.txPhase = .mark) (ht : s.txType = some (.buf .ip)) :
    exec .txEmit s = exec (.encBadstateMarkip (txExhausted s) (txByte s)) s := by
  rw [exec_txEmit, decodeEnc_txWord, hp, ht]
  rfl

/-- Settles O44: each state of R181 selects its row, which raises. -/
theorem badSequencerStateFaults : Obligations.BadSequencerStateFaults := by
  intro s ph a c hf
  refine ⟨exec_encBadstateNotype hf ph a c, exec_encBadstateMarkip hf a c, ?_⟩
  rintro (⟨hp, ht⟩ | ⟨hp, ht⟩)
  · exact (exec_txEmit_of_notype hp ht).trans (exec_encBadstateNotype hf _ _ _)
  · exact (exec_txEmit_of_markip hp ht).trans (exec_encBadstateMarkip hf _ _)

/-! ## An enabled operation has an effect -/

theorem releaseLock_wire (s : State) : (releaseLock s).wire = s.wire := by
  cases ho : s.txOwner with
  | none => rw [releaseLock_of_free ho]
  | some p => rw [releaseLock_of_owner ho]

/-- Every row but ENC_IDLE puts a byte on the wire or raises. -/
theorem encEffect_writes {a : EncAction} (h : ∀ t b c, a ≠ .idle t b c) (s : State) :
    (encEffect a s).fault = true ∨ ∃ b, (encEffect a s).wire = s.wire ++ [b] := by
  cases a with
  | idle t b c => exact absurd rfl (h t b c)
  | badstateNotype ph b c => exact .inl rfl
  | badstateMarkip b c => exact .inl rfl
  | mark t b c =>
    simp only [encEffect]
    cases marker s.conf t with
    | nil => exact .inl rfl
    | cons m ms => exact .inr ⟨m, rfl⟩
  | close t c => exact .inr ⟨_, releaseLock_wire _⟩
  | sub t b c => exact .inr ⟨_, rfl⟩
  | bodyEnd t => exact .inr ⟨_, rfl⟩
  | bodyEsc t => exact .inr ⟨_, rfl⟩
  | bodyLit t c => exact .inr ⟨_, rfl⟩

/-- Outside TX idle a `TX_EMIT` selects a row other than ENC_IDLE. -/
theorem decodeEnc_txWord_ne_idle {s : State} (hp : s.txPhase ≠ .idle) (t : Option FrameType) (b : Bool) (c : Byte) :
    decodeEnc s.conf (txWord s) ≠ .idle t b c := by
  rw [decodeEnc_txWord]
  cases h : s.txPhase with
  | idle => exact absurd h hp
  | mark =>
    cases s.txType with
    | none => simp
    | some u => dsimp only; split_ifs <;> simp
  | body =>
    cases s.txType with
    | none => simp
    | some u => dsimp only; split_ifs <;> simp
  | sub => cases s.txType <;> simp

theorem exec_txEmit_eq_self_iff {s : State} (hf : s.fault = false) : exec .txEmit s = .next s ↔ s.txPhase = .idle := by
  refine ⟨fun h => ?_, fun h => exec_held ((isHeld_txEmit hf).trans (decide_eq_true h))⟩
  by_contra hp
  rw [exec_txEmit_running hf] at h
  have hSelf : portEffect .txEmit s = s := Host.Outcome.next.inj h
  have hWrites := encEffect_writes (decodeEnc_txWord_ne_idle hp) s
  change (portEffect .txEmit s).fault = true ∨ ∃ b, (portEffect .txEmit s).wire = s.wire ++ [b] at hWrites
  rw [hSelf] at hWrites
  obtain hFault | ⟨b, hWire⟩ := hWrites
  · simp [hf] at hFault
  · simp at hWire

theorem exec_txSubmit_eq_self_iff {s : State} (hf : s.fault = false) {p : Nat} (hp : p < s.conf.nprod) (t : FrameType)
    (payload : List Byte) : exec (.txSubmit p t payload) s = .next s ↔ Store.read s.txReq p ≠ none := by
  rw [exec_txSubmit hf hp]
  refine ⟨fun h hr => ?_, fun hr => ?_⟩
  · rw [submit_of_none hr] at h
    have hReq := congrArg (fun u => Store.read u.txReq p) (Host.Outcome.next.inj h)
    dsimp only at hReq
    rw [Store.read_write_same, hr] at hReq
    cases hReq
  · obtain ⟨r, hr⟩ := Option.ne_none_iff_exists'.mp hr
    rw [submit_of_some hr]

theorem exec_txAcquire_eq_self_iff {s : State} (hf : s.fault = false) {p : Nat} (hp : p < s.conf.nprod) :
    exec (.txAcquire p) s = .next s ↔ s.txOwner ≠ none ∨ Store.read s.txReq p = none := by
  rw [exec_txAcquire hf hp]
  refine ⟨fun h => ?_, fun h => by rw [acquire_of_held h]⟩
  by_contra hEnabled
  rw [not_or, not_not] at hEnabled
  obtain ⟨ho, hr⟩ := hEnabled
  obtain ⟨r, hr⟩ := Option.ne_none_iff_exists'.mp hr
  rw [acquire_of_free ho hr] at h
  have hOwner := congrArg State.txOwner (Host.Outcome.next.inj h)
  rw [ho] at hOwner
  cases hOwner

/-! ## Programs -/

theorem runProgram_of_held {s : State} {prog rest : List Line} {i : Instr} (h : issue s prog = some (i, rest))
    (hHeld : isHeld i s = true) (n : Nat) : runProgram n prog s = .held prog s := by
  rw [runProgram, h]
  exact if_pos hHeld

theorem runProgram_of_next {s u : State} {prog rest : List Line} {i : Instr} (h : issue s prog = some (i, rest))
    (hHeld : isHeld i s = false) (hExec : exec i s = .next u) (n : Nat) :
    runProgram (n + 1) prog s = runProgram n rest u := by
  rw [runProgram, h]
  simp [hHeld, hExec]

theorem runProgram_zero_of_enabled {s : State} {prog rest : List Line} {i : Instr}
    (h : issue s prog = some (i, rest)) (hHeld : isHeld i s = false) : runProgram 0 prog s = .running prog s := by
  rw [runProgram, h]
  simp [hHeld]

theorem submit_owner (p : Nat) (r : TxRequest) (s : State) : (submit p r s).txOwner = s.txOwner := by
  cases hr : Store.read s.txReq p with
  | none => rw [submit_of_none hr]
  | some q => rw [submit_of_some hr]

theorem submit_fault (p : Nat) (r : TxRequest) (s : State) : (submit p r s).fault = s.fault := by
  cases hr : Store.read s.txReq p with
  | none => rw [submit_of_none hr]
  | some q => rw [submit_of_some hr]

/-- After its `tx_submit`, `send` is held at `tx_acquire` while the lock is taken. -/
theorem runProgram_acquire_of_taken {s : State} (hf : s.fault = false) {p : Nat} (hp : p < s.conf.nprod)
    (ho : s.txOwner ≠ none) (n : Nat) :
    runProgram n [.op (.txAcquire p), .emitFrame] s = .held [.op (.txAcquire p), .emitFrame] s := by
  refine runProgram_of_held (i := .txAcquire p) (rest := [.emitFrame]) rfl ?_ n
  rw [isHeld_txAcquire hf hp, Option.isSome_iff_ne_none.mpr ho, Bool.true_or]

/-- Settles O45: a held operation has no effect, an enabled one writes a request, takes the lock or puts a byte on the
wire; and `send` waits with its request recorded. -/
theorem heldOperationChangesNothing : Obligations.HeldOperationChangesNothing := by
  refine ⟨fun s i => exec_held, fun s hf => ⟨fun p t payload hp => exec_txSubmit_eq_self_iff hf hp t payload,
    fun p hp => exec_txAcquire_eq_self_iff hf hp, exec_txEmit_eq_self_iff hf⟩, fun s p t payload n hf hp ho =>
    ⟨runProgram_acquire_of_taken hf hp ho n, fun hr => ⟨_, exec_txSubmit hf hp t payload, ?_⟩⟩⟩
  have hEnabled : isHeld (.txSubmit p t payload) s = false := by rw [isHeld_txSubmit hf hp, hr]; rfl
  rw [runProgram_of_next rfl hEnabled (exec_txSubmit hf hp t payload)]
  refine runProgram_acquire_of_taken ?_ ?_ ?_ n
  · rw [submit_fault, hf]
  · rw [(submit_txFrame p _ s).conf]
    exact hp
  · rw [submit_owner]
    exact ho

/-! ## No abort and no interleaving (R184) -/

/-- Every row but ENC_CLOSE keeps the lock, the requests and the frame. -/
theorem encEffect_keeps_frame {a : EncAction} (h : ∀ t c, a ≠ .close t c) (s : State) :
    (encEffect a s).txOwner = s.txOwner ∧ (encEffect a s).txReq = s.txReq ∧ (encEffect a s).txType = s.txType ∧
      (encEffect a s).txPayload = s.txPayload := by
  cases a with
  | close t c => exact absurd rfl (h t c)
  | mark t b c =>
    simp only [encEffect]
    cases marker s.conf t <;> exact ⟨rfl, rfl, rfl, rfl⟩
  | _ => exact ⟨rfl, rfl, rfl, rfl⟩

/-- ENC_CLOSE is selected in phase BODY alone, with the payload exhausted. -/
theorem decodeEnc_txWord_close {s : State} {t : FrameType} {c : Byte} (h : decodeEnc s.conf (txWord s) = .close t c) :
    s.txPhase = .body ∧ s.txPos = s.txPayload.length := by
  rw [decodeEnc_txWord] at h
  cases hp : s.txPhase with
  | idle => simp [hp] at h
  | mark =>
    cases ht : s.txType with
    | none => simp [hp, ht] at h
    | some u =>
      simp only [hp, ht] at h
      split_ifs at h
  | sub => cases ht : s.txType <;> simp [hp, ht] at h
  | body =>
    cases ht : s.txType with
    | none => simp [hp, ht] at h
    | some u =>
      simp only [hp, ht] at h
      split_ifs at h with hExhausted
      exact ⟨rfl, of_decide_eq_true hExhausted⟩

/-- A `TX_EMIT` keeps the frame in flight, or closes it. -/
theorem txEmit_keeps_frame_or_closes (s : State) :
    ((portEffect .txEmit s).txOwner = s.txOwner ∧ (portEffect .txEmit s).txReq = s.txReq ∧
      (portEffect .txEmit s).txType = s.txType ∧ (portEffect .txEmit s).txPayload = s.txPayload) ∨
    (s.txPhase = .body ∧ s.txPos = s.txPayload.length ∧
      portEffect .txEmit s = releaseLock (s.emitWire s.conf.endByte)) := by
  by_cases hClose : ∃ t c, decodeEnc s.conf (txWord s) = .close t c
  · obtain ⟨t, c, hClose⟩ := hClose
    obtain ⟨hp, hPos⟩ := decodeEnc_txWord_close hClose
    exact .inr ⟨hp, hPos, by rw [portEffect, hClose, encEffect]⟩
  · exact .inl (encEffect_keeps_frame (fun t c h => hClose ⟨t, c, h⟩) s)

/-- A submission keeps the request of a producer that has one. -/
theorem submit_keeps_request {s : State} {p q : Nat} {r : TxRequest} (h : Store.read s.txReq p ≠ none) :
    Store.read (submit q r s).txReq p = Store.read s.txReq p := by
  cases hq : Store.read s.txReq q with
  | some _ => rw [submit_of_some hq]
  | none =>
    have hpq : p ≠ q := fun hpq => h (hpq ▸ hq)
    rw [submit_of_none hq]
    exact Store.read_write_other _ _ hpq

theorem submit_frame (p : Nat) (r : TxRequest) (s : State) :
    (submit p r s).txType = s.txType ∧ (submit p r s).txPayload = s.txPayload := by
  cases hr : Store.read s.txReq p with
  | none => rw [submit_of_none hr]; exact ⟨rfl, rfl⟩
  | some q => rw [submit_of_some hr]; exact ⟨rfl, rfl⟩

/-- Settles O46: operation by operation; only the closing row of `TX_EMIT` writes the lock that a producer owns. -/
theorem frameInFlightRunsToCompletion : Obligations.FrameInFlightRunsToCompletion := by
  intro s s' i p hPort ho h
  obtain ⟨-, rfl⟩ := exec_port_eq_next hPort h
  cases hi : i.isTransmit
  · have hSide := (portEffect_rxFrame hi s).txSide
    obtain ⟨hReq, hOwner, -, hType, hPayload, -, -, -, -⟩ := TxSide.mk.injEq .. ▸ hSide
    exact .inl ⟨hOwner.trans ho, fun _ => congrArg (Store.read · p) hReq, hType, hPayload⟩
  · cases i with
    | txSubmit q t payload =>
      obtain ⟨hType, hPayload⟩ := submit_frame q { frame := t, payload := payload } s
      exact .inl ⟨(submit_owner q _ s).trans ho, submit_keeps_request, hType, hPayload⟩
    | txAcquire q =>
      have hSame : portEffect (.txAcquire q) s = s := acquire_of_taken ho
      rw [hSame]
      exact .inl ⟨ho, fun _ => rfl, rfl, rfl⟩
    | txEmit =>
      obtain ⟨hOwner, hReq, hType, hPayload⟩ | ⟨hp, hPos, hClosed⟩ := txEmit_keeps_frame_or_closes s
      · exact .inl ⟨hOwner.trans ho, fun _ => congrArg (Store.read · p) hReq, hType, hPayload⟩
      · rw [hClosed, releaseLock_of_owner (s := s.emitWire s.conf.endByte) ho]
        exact .inr ⟨rfl, hp, hPos, rfl, Store.read_erase_same _ _, rfl, rfl⟩
    | _ => cases hi

end Sys2Proof.Machine
end

section
/-! Frames on the wire (42_encoder.md R170, R183, R184, R186): the length of a frame and its delimiter, what a
`TX_EMIT` does with a frame in flight, said once, the emission of a whole frame, and the invariants of the transmit path
that follow. O47 to O50 from that. -/

namespace Sys2Proof.Machine

/-! ## The encoding function (R170) -/

theorem escape_end (c : Config) : escape c c.endByte = [c.escByte, c.escEnd] := if_pos rfl

theorem escape_esc {c : Config} (h : c.escByte ≠ c.endByte) : escape c c.escByte = [c.escByte, c.escEsc] := by
  rw [escape, if_neg h, if_pos rfl]

theorem escape_literal {c : Config} {b : Byte} (hEnd : b ≠ c.endByte) (hEsc : b ≠ c.escByte) : escape c b = [b] := by
  rw [escape, if_neg hEnd, if_neg hEsc]

theorem escape_length (c : Config) (b : Byte) :
    (escape c b).length = 1 + if (decide (b = c.endByte) || decide (b = c.escByte)) = true then 1 else 0 := by
  by_cases hEnd : b = c.endByte
  · simp [hEnd, escape_end]
  · by_cases hEsc : b = c.escByte
    · subst hEsc
      simp [escape_esc hEnd]
    · simp [escape_literal hEnd hEsc, hEnd, hEsc]

theorem flatMap_escape_length (c : Config) (payload : List Byte) :
    (payload.flatMap (escape c)).length =
      payload.length + payload.countP (fun b => decide (b = c.endByte) || decide (b = c.escByte)) := by
  induction payload with
  | nil => rfl
  | cons b rest ih =>
    rw [List.flatMap_cons, List.length_append, escape_length, ih, List.length_cons, List.countP_cons]
    omega

theorem marker_length (c : Config) (t : FrameType) : (marker c t).length = if t = .buf .ip then 0 else 1 := by
  rcases t with _ | (_ | _) <;> rfl

/-- Settles O47: the marker, the escaped payload and the delimiter, each with its length. -/
theorem encodedFrameLength : Obligations.EncodedFrameLength := by
  intro c t payload
  have hLength : (wireFrame c t payload).length = (if t = .buf .ip then 0 else 1) + payload.length +
      payload.countP (fun b => decide (b = c.endByte) || decide (b = c.escByte)) + 1 := by
    rw [wireFrame, List.length_append, List.length_append, marker_length, flatMap_escape_length, List.length_singleton]
    omega
  exact ⟨hLength, by omega, rfl, rfl, rfl⟩

theorem endByte_not_mem_marker {c : Config} (hc : c.wf = true) (t : FrameType) : c.endByte ∉ marker c t := by
  rcases t with _ | (_ | _)
  · simpa [marker] using Config.wf_end_diag hc
  · simpa [marker] using Config.wf_end_cfg hc
  · simp [marker]

theorem endByte_not_mem_escape {c : Config} (hc : c.wf = true) (b : Byte) : c.endByte ∉ escape c b := by
  have hEscByte := Config.wf_end_esc hc
  by_cases hEnd : b = c.endByte
  · simp [hEnd, escape_end, hEscByte, (Config.wf_escEnd hc).1.symm]
  · by_cases hEsc : b = c.escByte
    · simp [hEsc, escape_esc hEscByte.symm, hEscByte, (Config.wf_escEsc hc).1.symm]
    · simpa [escape_literal hEnd hEsc] using Ne.symm hEnd

/-- Settles O48: neither a marker nor an escaped byte contains the delimiter. -/
theorem delimiterOnlyClosesTheFrame : Obligations.DelimiterOnlyClosesTheFrame := by
  intro c t payload hc
  refine ⟨marker c t ++ payload.flatMap (escape c), rfl, fun h => ?_⟩
  obtain h | h := List.mem_append.mp h
  · exact endByte_not_mem_marker hc t h
  · obtain ⟨b, -, hb⟩ := List.mem_flatMap.mp h
    exact endByte_not_mem_escape hc b hb

/-! ## A frame in flight -/

/-- A frame of type `t` is in flight: the sequencer's registers are ones R173 to R179 produce. -/
structure InFlight (t : FrameType) (s : State) : Prop where
  type : s.txType = some t
  notIdle : s.txPhase ≠ .idle
  posLe : s.txPos ≤ s.txPayload.length
  markStart : s.txPhase = .mark → s.txPos = 0 ∧ t ≠ .buf .ip
  subLast : s.txPhase = .sub →
    ∃ b, 0 < s.txPos ∧ s.txPayload[s.txPos - 1]? = some b ∧ escape s.conf b = [s.conf.escByte, s.txSubb]

/-- The bytes of the payload that are not yet consumed, escaped, and the delimiter. -/
def bodyBytes (s : State) : List Byte := (s.txPayload.drop s.txPos).flatMap (escape s.conf) ++ [s.conf.endByte]

/-- The bytes of the frame in flight, of type `t`, that are still to be emitted (R175 to R180). -/
def remainingBytes (t : FrameType) (s : State) : List Byte :=
  match s.txPhase with
  | .idle => []
  | .mark => marker s.conf t ++ bodyBytes s
  | .body => bodyBytes s
  | .sub => s.txSubb :: bodyBytes s

theorem remainingBytes_mark {t : FrameType} {s : State} (h : s.txPhase = .mark) :
    remainingBytes t s = marker s.conf t ++ bodyBytes s := by rw [remainingBytes, h]

theorem remainingBytes_body {t : FrameType} {s : State} (h : s.txPhase = .body) :
    remainingBytes t s = bodyBytes s := by rw [remainingBytes, h]

theorem remainingBytes_sub {t : FrameType} {s : State} (h : s.txPhase = .sub) :
    remainingBytes t s = s.txSubb :: bodyBytes s := by rw [remainingBytes, h]

theorem bodyBytes_of_exhausted {s : State} (h : s.txPos = s.txPayload.length) : bodyBytes s = [s.conf.endByte] := by
  rw [bodyBytes, h, List.drop_length]
  rfl

theorem bodyBytes_of_next {s : State} {b : Byte} (h : s.txPayload[s.txPos]? = some b) :
    bodyBytes s = escape s.conf b ++ bodyBytes { s with txPos := s.txPos + 1 } := by
  obtain ⟨hlt, hb⟩ := List.getElem?_eq_some_iff.mp h
  rw [bodyBytes, bodyBytes, List.drop_eq_getElem_cons hlt, List.flatMap_cons, hb, List.append_assoc]

/-- What is out of a frame and what remains of it are the frame. -/
theorem emitted_append_remaining {t : FrameType} {s : State} (h : InFlight t s) :
    emittedBytes s ++ remainingBytes t s = wireFrame s.conf t s.txPayload := by
  have hSplit (k : Nat) : (s.txPayload.take k).flatMap (escape s.conf) ++ (s.txPayload.drop k).flatMap (escape s.conf)
      = s.txPayload.flatMap (escape s.conf) := by rw [← List.flatMap_append, List.take_append_drop]
  cases hp : s.txPhase with
  | idle => exact absurd hp h.notIdle
  | mark =>
    obtain ⟨hPos, -⟩ := h.markStart hp
    simp [emittedBytes, hp, remainingBytes, bodyBytes, hPos, wireFrame]
  | body => simp [emittedBytes, hp, h.type, remainingBytes, bodyBytes, wireFrame, ← hSplit s.txPos]
  | sub =>
    obtain ⟨b, hPos, hb, hEsc⟩ := h.subLast hp
    obtain ⟨hlt, hb⟩ := List.getElem?_eq_some_iff.mp hb
    have hLast : (s.txPayload.drop (s.txPos - 1)).flatMap (escape s.conf) =
        s.conf.escByte :: s.txSubb :: (s.txPayload.drop s.txPos).flatMap (escape s.conf) := by
      rw [List.drop_eq_getElem_cons hlt, List.flatMap_cons, hb, hEsc, Nat.sub_add_cancel hPos]
      rfl
    simp [emittedBytes, hp, h.type, remainingBytes, bodyBytes, wireFrame, ← hSplit (s.txPos - 1), hLast]

/-- From `s` to `s'` the frame in flight went on: `rest` remains, and lock, requests and payload are as they were. -/
structure Advances (t : FrameType) (s s' : State) (rest : List Byte) : Prop where
  inFlight : InFlight t s'
  remaining : remainingBytes t s' = rest
  owner : s'.txOwner = s.txOwner
  requests : s'.txReq = s.txReq
  payload : s'.txPayload = s.txPayload
  done : s'.txDone = s.txDone

/-- A `TX_EMIT` from `s` to `s'` puts the next byte of the frame in flight on the wire, and the frame goes on or, after
its last byte, the lock is released. -/
structure EmitsNext (t : FrameType) (s s' : State) : Prop where
  fault : s'.fault = s.fault
  cause : s'.faultCause = s.faultCause
  outcome : ∃ c rest, remainingBytes t s = c :: rest ∧ s'.wire = s.wire ++ [c] ∧
    (Advances t s s' rest ∨ (rest = [] ∧ s' = releaseLock (s.emitWire c)))

theorem portEffect_txEmit_of_body {s : State} {t : FrameType} {b : Byte} (hp : s.txPhase = .body)
    (ht : s.txType = some t) (hb : s.txPayload[s.txPos]? = some b) :
    portEffect .txEmit s = encEffect (if b = s.conf.endByte then .bodyEnd t
      else if b = s.conf.escByte then .bodyEsc t else .bodyLit t b) s := by
  rw [portEffect, decodeEnc_txWord, hp, ht]
  dsimp only
  rw [txExhausted_of_next hb, txByte_of_next hb, if_neg Bool.false_ne_true]

/-- A byte to escape goes out as the introducer, and its substitute waits (R176, R177). -/
theorem emitEscape_emitsNext {t : FrameType} {s : State} (h : InFlight t s) (hp : s.txPhase = .body) {b subst : Byte}
    (hb : s.txPayload[s.txPos]? = some b) (hEsc : escape s.conf b = [s.conf.escByte, subst]) :
    EmitsNext t s (emitEscape subst s) := by
  obtain ⟨hlt, -⟩ := List.getElem?_eq_some_iff.mp hb
  refine ⟨rfl, rfl, s.conf.escByte, subst :: bodyBytes { s with txPos := s.txPos + 1 }, ?_, rfl, .inl ?_⟩
  · rw [remainingBytes_body hp, bodyBytes_of_next hb, hEsc]
    rfl
  · exact ⟨⟨h.type, nofun, hlt, nofun, fun _ => ⟨b, Nat.succ_pos _, hb, hEsc⟩⟩, rfl, rfl, rfl, rfl, rfl⟩

/-- Any other byte goes out as it is (R178). -/
theorem literal_emitsNext {t : FrameType} {s : State} (h : InFlight t s) (hp : s.txPhase = .body) {b : Byte}
    (hb : s.txPayload[s.txPos]? = some b) (hLit : escape s.conf b = [b]) :
    EmitsNext t s { s.emitWire b with txPos := s.txPos + 1 } := by
  obtain ⟨hlt, -⟩ := List.getElem?_eq_some_iff.mp hb
  refine ⟨rfl, rfl, b, bodyBytes { s with txPos := s.txPos + 1 }, ?_, rfl, .inl ?_⟩
  · rw [remainingBytes_body hp, bodyBytes_of_next hb, hLit]
    rfl
  · exact ⟨⟨h.type, h.notIdle, hlt, fun hm => absurd (hp.symm.trans hm) nofun,
      fun hs => absurd (hp.symm.trans hs) nofun⟩, remainingBytes_body hp, rfl, rfl, rfl, rfl⟩

theorem releaseLock_fault (s : State) :
    (releaseLock s).fault = s.fault ∧ (releaseLock s).faultCause = s.faultCause := by
  cases ho : s.txOwner with
  | none => rw [releaseLock_of_free ho]; exact ⟨rfl, rfl⟩
  | some p => rw [releaseLock_of_owner ho]; exact ⟨rfl, rfl⟩

theorem body_emitsNext {t : FrameType} {s : State} (h : InFlight t s) (hp : s.txPhase = .body) :
    EmitsNext t s (portEffect .txEmit s) := by
  by_cases hPos : s.txPos = s.txPayload.length
  · have hClose : portEffect .txEmit s = releaseLock (s.emitWire s.conf.endByte) := by
      rw [portEffect, decodeEnc_txWord, hp, h.type]
      dsimp only
      rw [if_pos (show txExhausted s = true from decide_eq_true hPos), encEffect]
    rw [hClose]
    obtain ⟨hFault, hCause⟩ := releaseLock_fault (s.emitWire s.conf.endByte)
    refine ⟨hFault, hCause, s.conf.endByte, [], ?_, releaseLock_wire _, .inr ⟨rfl, rfl⟩⟩
    rw [remainingBytes_body hp, bodyBytes_of_exhausted hPos]
  · have hlt : s.txPos < s.txPayload.length := lt_of_le_of_ne h.posLe hPos
    have hb := List.getElem?_eq_getElem hlt
    rw [portEffect_txEmit_of_body hp h.type hb]
    split_ifs with hEnd hEsc
    · exact emitEscape_emitsNext h hp hb (by rw [hEnd, escape_end])
    · refine emitEscape_emitsNext h hp hb ?_
      rw [hEsc] at hEnd ⊢
      exact escape_esc hEnd
    · exact literal_emitsNext h hp hb (escape_literal hEnd hEsc)

/-- Everything a `TX_EMIT` does with a frame in flight (R175 to R180). -/
theorem txEmit_emitsNext {t : FrameType} {s : State} (h : InFlight t s) : EmitsNext t s (portEffect .txEmit s) := by
  cases hp : s.txPhase with
  | idle => exact absurd hp h.notIdle
  | mark =>
    obtain ⟨-, hIp⟩ := h.markStart hp
    have hMark : portEffect .txEmit s =
        { s.emitWire (if t = .diag then s.conf.diagMarker else s.conf.cfgMarker) with txPhase := .body } := by
      rw [portEffect, decodeEnc_txWord, hp, h.type]
      dsimp only
      rw [if_neg hIp, encEffect, marker_of_ne_ip s.conf hIp]
    rw [hMark]
    exact ⟨rfl, rfl, _, bodyBytes s, by rw [remainingBytes_mark hp, marker_of_ne_ip s.conf hIp]; rfl, rfl,
      .inl ⟨⟨h.type, nofun, h.posLe, nofun, nofun⟩, rfl, rfl, rfl, rfl, rfl⟩⟩
  | body => exact body_emitsNext h hp
  | sub =>
    have hSub : portEffect .txEmit s = { s.emitWire s.txSubb with txPhase := .body } := by
      rw [portEffect, decodeEnc_txWord, hp, h.type]
      rfl
    rw [hSub]
    exact ⟨rfl, rfl, s.txSubb, bodyBytes s, remainingBytes_sub hp, rfl,
      .inl ⟨⟨h.type, nofun, h.posLe, nofun, nofun⟩, rfl, rfl, rfl, rfl, rfl⟩⟩

/-! ## The emission of a whole frame (R183) -/

theorem issue_emitFrame {s : State} (h : s.txPhase ≠ .idle) : issue s [.emitFrame] = some (.txEmit, [.emitFrame]) := by
  rw [issue, if_neg h]

theorem isHeld_txEmit_of_inFlight {t : FrameType} {s : State} (hf : s.fault = false) (h : InFlight t s) :
    isHeld .txEmit s = false := (isHeld_txEmit hf).trans (decide_eq_false h.notIdle)

theorem execAll_txEmit_succ {s : State} (hf : s.fault = false) (k : Nat) :
    execAll (List.replicate (k + 1) .txEmit) s = execAll (List.replicate k .txEmit) (portEffect .txEmit s) := by
  rw [List.replicate_succ, execAll, exec_txEmit_running hf]

/-- After `k` emissions from `s`, in `s'`: the first `k` of the bytes that remained are out, and the lock is the
owner's until they all are. -/
structure EmittedUpTo (t : FrameType) (p : Nat) (s s' : State) (k : Nat) : Prop where
  fault : s'.fault = false
  wire : s'.wire = s.wire ++ (remainingBytes t s).take k
  rxSide : s'.rxSide = s.rxSide
  unfinished : k < (remainingBytes t s).length → s'.txOwner = some p ∧ s'.txDone = s.txDone
  finished : k = (remainingBytes t s).length →
    s'.txOwner = none ∧ s'.txPhase = .idle ∧ s'.txDone = s.txDone ++ [p] ∧ s'.txReq = Store.erase s.txReq p

theorem emittedUpTo_zero {t : FrameType} {p : Nat} {s : State} (h : InFlight t s) (hf : s.fault = false)
    (ho : s.txOwner = some p) : EmittedUpTo t p s s 0 := by
  obtain ⟨-, -, c, rest, hRemaining, -⟩ := txEmit_emitsNext h
  exact ⟨hf, by simp, rfl, fun _ => ⟨ho, rfl⟩, fun hk => by simp [hRemaining] at hk⟩

/-- The emissions from a frame in flight, as operations and as `emit_frame`. -/
theorem emission {t : FrameType} {p : Nat} {s : State} (h : InFlight t s) (hf : s.fault = false)
    (ho : s.txOwner = some p) (k : Nat) (hk : k ≤ (remainingBytes t s).length) :
    ∃ s', execAll (List.replicate k .txEmit) s = .next s' ∧ EmittedUpTo t p s s' k ∧
      runProgram k [.emitFrame] s =
        if k = (remainingBytes t s).length then .finished s' else .running [.emitFrame] s' := by
  induction k generalizing s with
  | zero =>
    have hUpTo := emittedUpTo_zero h hf ho
    refine ⟨s, rfl, hUpTo, ?_⟩
    have hLeft : 0 ≠ (remainingBytes t s).length := fun h0 =>
      absurd (hUpTo.finished h0).1 (by simp [ho])
    rw [if_neg hLeft]
    exact runProgram_zero_of_enabled (issue_emitFrame h.notIdle) (isHeld_txEmit_of_inFlight hf h)
  | succ k ih =>
    obtain ⟨hFault, -, c, rest, hRemaining, hWire, hOutcome⟩ := txEmit_emitsNext h
    have hRx := (portEffect_txFrame (i := .txEmit) rfl s).rxSide
    rw [execAll_txEmit_succ hf, runProgram_of_next (issue_emitFrame h.notIdle) (isHeld_txEmit_of_inFlight hf h)
      (exec_txEmit_running hf), hRemaining, List.length_cons]
    obtain hOn | ⟨rfl, hClosed⟩ := hOutcome
    · have hk' : k ≤ (remainingBytes t (portEffect .txEmit s)).length := by
        rw [hOn.remaining]
        simpa [hRemaining] using hk
      obtain ⟨s', hExec, hUpTo, hRun⟩ := ih hOn.inFlight (hFault.trans hf) (hOn.owner.trans ho) hk'
      obtain ⟨hFault', hWire', hRx', hUnfinished, hFinished⟩ := hUpTo
      rw [hOn.remaining] at hWire' hUnfinished hFinished hRun
      rw [hOn.done] at hUnfinished hFinished
      rw [hOn.requests] at hFinished
      refine ⟨s', hExec, ⟨hFault', ?_, hRx'.trans hRx, fun hlt => hUnfinished ?_, fun heq => hFinished ?_⟩, ?_⟩
      · rw [hWire', hWire, hRemaining, List.take_succ_cons, List.append_assoc]
        rfl
      · simpa [hRemaining] using hlt
      · simpa [hRemaining] using heq
      · simpa using hRun
    · obtain rfl : k = 0 := by simpa [hRemaining] using hk
      rw [releaseLock_of_owner (s := s.emitWire c) ho] at hClosed
      refine ⟨_, rfl, ⟨hFault.trans hf, ?_, hRx, fun hlt => absurd hlt (by simp [hRemaining]), fun _ => ?_⟩, ?_⟩
      · rw [hWire, hRemaining]
        rfl
      · rw [hClosed]
        exact ⟨rfl, rfl, rfl, rfl⟩
      · have hIdle : (portEffect .txEmit s).txPhase = .idle := by rw [hClosed]
        rw [runProgram_emitFrame_idle hIdle]
        rfl

/-- A frame that is granted the lock is in flight from its first byte. -/
theorem acquire_inFlight {s : State} {p : Nat} {r : TxRequest} (ho : s.txOwner = none)
    (hr : Store.read s.txReq p = some r) : InFlight r.frame (acquire p s) := by
  rw [acquire_of_free ho hr, firstPhase_eq]
  refine ⟨rfl, ?_, Nat.zero_le _, fun hm => ⟨rfl, ?_⟩, fun hs => ?_⟩
  · dsimp only
    split <;> nofun
  · rintro hIp
    rw [if_pos hIp] at hm
    cases hm
  · dsimp only at hs
    split at hs <;> cases hs

/-- Nothing of a frame that is granted the lock is out. -/
theorem acquire_emittedBytes {s : State} {p : Nat} {r : TxRequest} (ho : s.txOwner = none)
    (hr : Store.read s.txReq p = some r) : emittedBytes (acquire p s) = [] := by
  rw [acquire_of_free ho hr]
  rcases hFrame : r.frame with _ | (_ | _) <;> simp [emittedBytes, firstPhase, marker]

theorem acquire_remainingBytes {s : State} {p : Nat} {r : TxRequest} (ho : s.txOwner = none)
    (hr : Store.read s.txReq p = some r) :
    remainingBytes r.frame (acquire p s) = wireFrame s.conf r.frame r.payload := by
  have hWhole := emitted_append_remaining (acquire_inFlight ho hr)
  rw [acquire_emittedBytes ho hr, List.nil_append, (acquire_txFrame p s).conf] at hWhole
  rw [hWhole, acquire_of_free ho hr]

/-- From the grant on: `k` emissions, as operations and as `emit_frame`. -/
theorem emission_from_acquire {s : State} {p : Nat} {r : TxRequest} (hf : s.fault = false) (ho : s.txOwner = none)
    (hr : Store.read s.txReq p = some r) (k : Nat) (hk : k ≤ (wireFrame s.conf r.frame r.payload).length) :
    ∃ s', execAll (List.replicate k .txEmit) (acquire p s) = .next s' ∧
      EmittedUpTo r.frame p (acquire p s) s' k ∧
      runProgram k [.emitFrame] (acquire p s) =
        if k = (wireFrame s.conf r.frame r.payload).length then .finished s' else .running [.emitFrame] s' := by
  rw [← acquire_remainingBytes ho hr] at hk ⊢
  refine emission (acquire_inFlight ho hr) ?_ ?_ k hk
  · rw [acquire_of_free ho hr]
    exact hf
  · rw [acquire_of_free ho hr]

/-- `tx_acquire` and `emit_frame` on the free lock: the grant and the whole frame. -/
theorem acquire_emitFrame_of_free {s : State} {p : Nat} {r : TxRequest} (hf : s.fault = false)
    (hp : p < s.conf.nprod) (ho : s.txOwner = none) (hr : Store.read s.txReq p = some r) :
    ∃ s', runProgram ((wireFrame s.conf r.frame r.payload).length + 1) [.op (.txAcquire p), .emitFrame] s =
        .finished s' ∧
      s'.fault = false ∧ s'.wire = s.wire ++ wireFrame s.conf r.frame r.payload ∧ s'.txDone = s.txDone ++ [p] ∧
      s'.txOwner = none ∧ s'.txPhase = .idle ∧ s'.rxSide = s.rxSide := by
  have hEnabled : isHeld (.txAcquire p) s = false := by
    rw [isHeld_txAcquire hf hp, ho, hr]
    rfl
  rw [runProgram_of_next rfl hEnabled (exec_txAcquire hf hp)]
  obtain ⟨s', -, ⟨hFault, hWire, hRx, -, hFinished⟩, hRun⟩ := emission_from_acquire hf ho hr _ le_rfl
  rw [acquire_remainingBytes ho hr] at hWire hFinished
  obtain ⟨hOwner, hIdle, hDone, -⟩ := hFinished rfl
  rw [List.take_length] at hWire
  rw [acquire_of_free ho hr] at hWire hRx hDone
  exact ⟨s', hRun.trans (if_pos rfl), hFault, hWire, hDone, hOwner, hIdle, hRx⟩

/-- `send` on the free lock: the submission, the grant, and the whole frame. -/
theorem send_of_free {s : State} {p : Nat} {t : FrameType} {payload : List Byte} (hf : s.fault = false)
    (hp : p < s.conf.nprod) (ho : s.txOwner = none) (hr : Store.read s.txReq p = none) :
    ∃ s', runProgram ((wireFrame s.conf t payload).length + 2) [.send p t payload] s = .finished s' ∧
      s'.fault = false ∧ s'.wire = s.wire ++ wireFrame s.conf t payload ∧ s'.txDone = s.txDone ++ [p] ∧
      s'.txOwner = none ∧ s'.txPhase = .idle ∧ s'.rxSide = s.rxSide := by
  have hEnabled : isHeld (.txSubmit p t payload) s = false := by rw [isHeld_txSubmit hf hp, hr]; rfl
  rw [runProgram_of_next rfl hEnabled (exec_txSubmit hf hp t payload), submit_of_none hr]
  exact acquire_emitFrame_of_free (r := { frame := t, payload := payload }) hf hp ho (Store.read_write_same _ _ _)

/-- Settles O49: the grant puts the frame in flight with all its bytes to come, and each `TX_EMIT` emits the next. -/
theorem frameIsEmittedWhole : Obligations.FrameIsEmittedWhole := by
  refine ⟨fun s p t payload hf hp ho hr => ⟨fun k hk => ?_, acquire p s, exec_txAcquire hf hp, fun k hk => ?_⟩,
    fun s p t payload hf hp ho hr => send_of_free hf hp ho hr⟩
  · obtain ⟨s', hExec, hUpTo, -⟩ := emission_from_acquire hf ho hr k hk
    obtain ⟨hFault, hWire, hRx, hUnfinished, hFinished⟩ := hUpTo
    rw [acquire_remainingBytes ho hr] at hWire hUnfinished hFinished
    rw [acquire_of_free ho hr] at hWire hRx hUnfinished hFinished
    refine ⟨s', ?_, hFault, hWire, hRx, hUnfinished, fun heq => ?_⟩
    · rw [execAll, exec_txAcquire hf hp]
      exact hExec
    · obtain ⟨hOwner, hIdle, hDone, hReq⟩ := hFinished heq
      rw [hReq]
      exact ⟨hOwner, hIdle, hDone, Store.read_erase_same _ _, fun q hq => Store.read_erase_other _ hq⟩
  · obtain ⟨s', hExec, -, hRun⟩ := emission_from_acquire hf ho hr k hk
    exact ⟨s', hExec, hRun⟩

/-! ## The invariant of the transmit path (R31) -/

/-- Where the sequencer is not idle, the invariant has a frame in flight. -/
theorem TxInv.inFlight {s : State} (h : TxInv s) (hp : s.txPhase ≠ .idle) :
    ∃ t p, s.txOwner = some p ∧ InFlight t s := by
  obtain ⟨p, ho⟩ := Option.ne_none_iff_exists'.mp fun ho => hp (h.ownerIdle.mp ho)
  obtain ⟨r, -, ht, -⟩ := h.ownerRequest p ho
  refine ⟨r.frame, p, ho, ht, hp, h.posLe, fun hm => ?_, h.subLast⟩
  obtain ⟨hPos, hIp⟩ := h.markStart hm
  exact ⟨hPos, fun hFrame => hIp (ht.trans (congrArg some hFrame))⟩

theorem portEffect_txEmit_idle {s : State} (hp : s.txPhase = .idle) : portEffect .txEmit s = s := by
  rw [portEffect, decodeEnc_txWord, hp]
  rfl

theorem TxInv.submit {s : State} (h : TxInv s) {p : Nat} (hp : p < s.conf.nprod) (r : TxRequest) :
    TxInv (submit p r s) := by
  cases hr : Store.read s.txReq p with
  | some q => rw [submit_of_some hr]; exact h
  | none =>
    rw [submit_of_none hr]
    refine { h with ownerRequest := fun q hq => ?_, reqWf := Store.write_wf p r h.reqWf, reqBound := fun e he => ?_ }
    · obtain ⟨r', hr', ht, hPayload⟩ := h.ownerRequest q hq
      have hqp : q ≠ p := by
        rintro rfl
        rw [hr] at hr'
        cases hr'
      exact ⟨r', (Store.read_write_other _ r hqp).trans hr', ht, hPayload⟩
    · obtain rfl | he := Store.mem_write he
      · exact hp
      · exact h.reqBound e he

theorem TxInv.acquire {s : State} (h : TxInv s) (p : Nat) : TxInv (acquire p s) := by
  cases hr : Store.read s.txReq p with
  | none => rw [acquire_of_noRequest hr]; exact h
  | some r =>
    cases ho : s.txOwner with
    | some q => rw [acquire_of_taken ho]; exact h
    | none =>
      obtain ⟨-, hNotIdle, hPos, hMark, hSub⟩ := acquire_inFlight ho hr
      rw [acquire_of_free ho hr] at hNotIdle hPos hMark hSub ⊢
      exact
        { ownerIdle := iff_of_false nofun hNotIdle
          posLe := hPos
          ownerRequest := fun q hq => by
            obtain rfl := Option.some.inj hq
            exact ⟨r, hr, rfl, rfl⟩
          markStart := fun hm => ⟨rfl, fun ht => (hMark hm).2 (Option.some.inj ht)⟩
          subLast := hSub
          reqWf := h.reqWf
          reqBound := h.reqBound }

theorem TxInv.releaseLock {s : State} (h : TxInv s) {p : Nat} (ho : s.txOwner = some p) (c : Byte) :
    TxInv (releaseLock (s.emitWire c)) := by
  rw [releaseLock_of_owner (s := s.emitWire c) ho]
  exact
    { ownerIdle := iff_of_true rfl rfl
      posLe := h.posLe
      ownerRequest := nofun
      markStart := nofun
      subLast := nofun
      reqWf := Store.erase_wf p h.reqWf
      reqBound := fun e he => h.reqBound e (Store.mem_erase he) }

theorem TxInv.advances {s s' : State} (h : TxInv s) {t : FrameType} {p : Nat} {rest : List Byte}
    (ht : s.txType = some t) (ho : s.txOwner = some p) (hc : s'.conf = s.conf) (hOn : Advances t s s' rest) :
    TxInv s' where
  ownerIdle := iff_of_false (by rw [hOn.owner, ho]; nofun) hOn.inFlight.notIdle
  posLe := hOn.inFlight.posLe
  ownerRequest := by
    rw [hOn.owner, hOn.requests, hOn.inFlight.type, hOn.payload, ← ht]
    exact h.ownerRequest
  markStart := fun hm => by
    obtain ⟨hPos, hIp⟩ := hOn.inFlight.markStart hm
    exact ⟨hPos, fun hType => hIp (Option.some.inj (hOn.inFlight.type.symm.trans hType))⟩
  subLast := hOn.inFlight.subLast
  reqWf := by rw [hOn.requests]; exact h.reqWf
  reqBound := by rw [hOn.requests, hc]; exact h.reqBound

theorem TxInv.txEmit {s : State} (h : TxInv s) : TxInv (portEffect .txEmit s) := by
  by_cases hp : s.txPhase = .idle
  · rw [portEffect_txEmit_idle hp]
    exact h
  · obtain ⟨t, p, ho, hFlight⟩ := h.inFlight hp
    obtain ⟨-, -, c, rest, -, -, hOn | ⟨-, hClosed⟩⟩ := txEmit_emitsNext hFlight
    · exact h.advances hFlight.type ho (portEffect_conf .txEmit s) hOn
    · rw [hClosed]
      exact h.releaseLock ho c

/-- Every operation of a port keeps the invariant of the transmit path. -/
theorem exec_txInv {i : Instr} {s s' : State} (hPort : i.isPort = true) (h : TxInv s) (hExec : exec i s = .next s') :
    TxInv s' := by
  cases hi : i.isTransmit
  · obtain ⟨-, rfl⟩ := exec_port_eq_next hPort hExec
    exact h.congr (portEffect_conf i s) (portEffect_rxFrame hi s).txSide
  · cases i with
    | txSubmit p t payload =>
      obtain ⟨hp, -, rfl⟩ := whenProducer_eq_next.mp hExec
      exact h.submit hp _
    | txAcquire p =>
      obtain ⟨-, -, rfl⟩ := whenProducer_eq_next.mp hExec
      exact h.acquire p
    | txEmit =>
      obtain ⟨-, rfl⟩ := exec_port_eq_next hPort hExec
      exact h.txEmit
    | _ => cases hi

/-! ## Whole frames on the wire (R184) -/

theorem emittedBytes_idle {s : State} (hp : s.txPhase = .idle) : emittedBytes s = [] := by rw [emittedBytes, hp]

theorem WireHolds.congr {sent : List TxRequest} {s s' : State} (h : WireHolds sent s) (hc : s'.conf = s.conf)
    (hw : s'.wire = s.wire) (he : emittedBytes s' = emittedBytes s) : WireHolds sent s' := by
  rw [WireHolds, hc, hw, he]
  exact h

theorem WireHolds.of_txSide {sent : List TxRequest} {s s' : State} (h : WireHolds sent s) (hc : s'.conf = s.conf)
    (hSide : s'.txSide = s.txSide) : WireHolds sent s' := by
  obtain ⟨-, -, hPhase, hType, hPayload, hPos, -, hWire, -⟩ := TxSide.mk.injEq .. ▸ hSide
  exact h.congr hc hWire (by simp only [emittedBytes, hPhase, hType, hPayload, hPos, hc])

theorem WireHolds.acquire {sent : List TxRequest} {s : State} (hInv : TxInv s) (h : WireHolds sent s) (p : Nat) :
    WireHolds sent (acquire p s) := by
  cases hr : Store.read s.txReq p with
  | none => rw [acquire_of_noRequest hr]; exact h
  | some r =>
    cases ho : s.txOwner with
    | some q => rw [acquire_of_taken ho]; exact h
    | none =>
      refine h.congr (acquire_txFrame p s).conf ?_ ?_
      · rw [acquire_of_free ho hr]
      · rw [acquire_emittedBytes ho hr, emittedBytes_idle (hInv.ownerIdle.mp ho)]

/-- A byte that goes out of a frame in flight is the next of the frame's bytes that are out. -/
theorem emittedBytes_advances {t : FrameType} {s s' : State} {c : Byte} {rest : List Byte} (h : InFlight t s)
    (hc : s'.conf = s.conf) (hRemaining : remainingBytes t s = c :: rest) (hOn : Advances t s s' rest) :
    emittedBytes s' = emittedBytes s ++ [c] := by
  have hBefore := emitted_append_remaining h
  have hAfter := emitted_append_remaining hOn.inFlight
  rw [hOn.remaining, hc, hOn.payload, ← hBefore, hRemaining, List.append_cons] at hAfter
  exact List.append_cancel_right hAfter

theorem WireHolds.txEmit {sent : List TxRequest} {s : State} (hInv : TxInv s) (h : WireHolds sent s) :
    WireHolds sent (portEffect .txEmit s) ∨
      ∃ t, s.txType = some t ∧
        WireHolds (sent ++ [{ frame := t, payload := s.txPayload }]) (portEffect .txEmit s) := by
  by_cases hp : s.txPhase = .idle
  · rw [portEffect_txEmit_idle hp]
    exact .inl h
  obtain ⟨t, p, ho, hFlight⟩ := hInv.inFlight hp
  obtain ⟨-, -, c, rest, hRemaining, hWire, hOutcome⟩ := txEmit_emitsNext hFlight
  have hConf := portEffect_conf .txEmit s
  have hSent : s.wire = sent.flatMap (fun r => wireFrame s.conf r.frame r.payload) ++ emittedBytes s := h
  obtain hOn | ⟨rfl, hClosed⟩ := hOutcome
  · left
    rw [WireHolds, hWire, hConf, emittedBytes_advances hFlight hConf hRemaining hOn, hSent, List.append_assoc]
  · right
    refine ⟨t, hFlight.type, ?_⟩
    have hIdle : (portEffect .txEmit s).txPhase = .idle := by
      rw [hClosed, releaseLock_of_owner (s := s.emitWire c) ho]
    have hWhole := emitted_append_remaining hFlight
    rw [hRemaining] at hWhole
    rw [WireHolds, hWire, hConf, emittedBytes_idle hIdle, hSent, List.flatMap_append, List.append_assoc, hWhole]
    simp

/-- Every operation of a port keeps whole frames on the wire, adding the frame in flight when it completes. -/
theorem exec_wireHolds {i : Instr} {s s' : State} {sent : List TxRequest} (hPort : i.isPort = true) (hInv : TxInv s)
    (h : WireHolds sent s) (hExec : exec i s = .next s') :
    WireHolds sent s' ∨
      ∃ t, s.txType = some t ∧ WireHolds (sent ++ [{ frame := t, payload := s.txPayload }]) s' := by
  obtain ⟨-, rfl⟩ := exec_port_eq_next hPort hExec
  cases hi : i.isTransmit
  · exact .inl (h.of_txSide (portEffect_conf i s) (portEffect_rxFrame hi s).txSide)
  · cases i with
    | txSubmit p t payload =>
      left
      cases hr : Store.read s.txReq p with
      | some q => rw [portEffect, submit_of_some hr]; exact h
      | none => rw [portEffect, submit_of_none hr]; exact h
    | txAcquire p => exact .inl (h.acquire hInv p)
    | txEmit => exact h.txEmit hInv
    | _ => cases hi

theorem wireHolds_constructed (c : Config) : WireHolds [] (State.constructed c) := rfl

/-- Settles O50: nothing is on the wire at construction, and each operation of a port keeps the whole frames there. -/
theorem wireIsWholeFrames : Obligations.WireIsWholeFrames :=
  ⟨wireHolds_constructed, fun _ _ _ _ hPort hInv h hExec => exec_wireHolds hPort hInv h hExec⟩

end Sys2Proof.Machine
end

section
/-! The invariants of the receive path (10_state.md §2, §3; 40_decoder.md R114; 60_exceptions.md R207): each kept by the
writes of the decoder and by each event in sequence, and by the operations that receive no byte; construction and the
invariant of the block. O12, O54, O55 and O56 from that. -/

namespace Sys2Proof.Machine

/-! ## The operations of a port that receive no byte -/

/-- What an operation that receives no byte leaves alone of the receive path. -/
structure KeepsDecoder (s s' : State) : Prop where
  conf : s'.conf = s.conf
  dstate : s'.dstate = s.dstate
  hopen : s'.hopen = s.hopen
  ferr : s'.ferr = s.ferr
  ev : s'.ev = s.ev
  diagOut : s'.diagOut = s.diagOut
  notify : s'.notify = s.notify

theorem keepsDecoder_of_rxSide {s s' : State} (hc : s'.conf = s.conf) (h : s'.rxSide = s.rxSide) :
    KeepsDecoder s s' := by
  obtain ⟨hState, hOpen, hErr, -, -, hEv, hDiag, hNotify⟩ := RxSide.mk.injEq .. ▸ h
  exact ⟨hc, hState, hOpen, hErr, hEv, hDiag, hNotify⟩

theorem portEffect_keepsDecoder {i : Instr} (h : ∀ b, i ≠ .rx b) (s : State) : KeepsDecoder s (portEffect i s) := by
  cases hi : i.isTransmit
  case true =>
    have hFrame := portEffect_txFrame hi s
    exact keepsDecoder_of_rxSide hFrame.conf hFrame.rxSide
  cases i with
  | rx b => exact absurd rfl (h b)
  | consume t => cases t <;> exact ⟨rfl, rfl, rfl, rfl, rfl, rfl, rfl⟩
  | rdbuf t k =>
    rw [portEffect]
    split_ifs <;> exact ⟨rfl, rfl, rfl, rfl, rfl, rfl, rfl⟩
  | txSubmit p t payload => cases hi
  | txAcquire p => cases hi
  | txEmit => cases hi
  | _ => exact ⟨rfl, rfl, rfl, rfl, rfl, rfl, rfl⟩

/-- An operation that receives no byte keeps a slot, but for the flag that a drain clears. -/
theorem portEffect_slot {i : Instr} (h : ∀ b, i ≠ .rx b) (s : State) (t : BufType) :
    (portEffect i s).slot t = s.slot t ∨
      (i = .consume t ∧ (portEffect i s).slot t = { s.slot t with ready := false }) := by
  cases hi : i.isTransmit
  case true => exact .inl (slot_of_rxSide (portEffect_txFrame hi s).rxSide t)
  cases i with
  | rx b => exact absurd rfl (h b)
  | consume u =>
    by_cases hu : t = u
    · subst hu
      exact .inr ⟨rfl, State.setSlot_slot s t _⟩
    · exact .inl (State.setSlot_slot_other s _ hu)
  | rdbuf u k =>
    rw [portEffect]
    split_ifs
    · exact .inl (State.answer_slot s _ t)
    · exact .inl (State.raiseFault_slot s _ t)
  | rdreg n => exact .inl (State.answer_slot s _ t)
  | txSubmit p t payload => cases hi
  | txAcquire p => cases hi
  | txEmit => cases hi
  | _ => exact .inl rfl

theorem rx_or_other (i : Instr) : (∃ b, i = .rx b) ∨ ∀ b, i ≠ .rx b := by
  by_cases h : ∃ b, i = .rx b
  · exact .inl h
  · exact .inr fun b hb => h ⟨b, hb⟩

/-! ## The decoder's registers (R21, R22, R207) -/

/-- The errors a frame may carry: `OVF` and `BUSY` only of a buffered type, and never both. -/
structure ErrorsLegal (s : State) : Prop where
  diag : s.hopen = some .diag → s.ferr.ovf = false ∧ s.ferr.busy = false
  busy : s.ferr.busy = true → s.ferr.ovf = false

theorem rxClosed_errorsLegal : RxClosed (fun _ => True) ErrorsLegal where
  dstate s d h := ⟨h.diag, h.busy⟩
  escError s h := ⟨h.diag, h.busy⟩
  raise s c h := ⟨h.diag, h.busy⟩
  begins s t _ ho h := by
    obtain ⟨e, c, i, hs, rfl | ⟨rfl, ht⟩⟩ := hBegin_closed (t := t) ho
    · rw [hs]; exact ⟨fun _ => ⟨rfl, rfl⟩, nofun⟩
    · rw [hs]; exact ⟨fun hd => absurd (Option.some.inj hd) ht, fun _ => rfl⟩
  writes s t b _ ho h := by
    obtain ⟨e, c, i, d, hs, rfl | ⟨rfl, hb, ht⟩⟩ := hWrite_open (b := b) ho
    · rw [hs]; exact ⟨h.diag, h.busy⟩
    · rw [hs]
      exact ⟨fun hd => absurd (Option.some.inj (ho.symm.trans hd)) ht, fun hBusy => absurd (hb.symm.trans hBusy) nofun⟩
  ends s t _ ho h := by
    obtain ⟨c, i, n, hs⟩ := hEnd_open ho
    rw [hs]; exact ⟨nofun, h.busy⟩

theorem RxInv.sequenced {s : State} (h : RxInv s) : Sequenced s := ⟨h.legalState, h.openFrame⟩

/-- Every operation of a port keeps the invariant of the decoder's registers. -/
theorem portEffect_rxInv {i : Instr} {s : State} (hf : s.fault = false) (h : RxInv s) : RxInv (portEffect i s) := by
  obtain ⟨b, rfl⟩ | hi := rx_or_other i
  · have hSeq := rx_sequenced hf h.sequenced b
    have hErr := rxClosed_errorsLegal.rx b ⟨h.diagErrors, h.busyNoOverflow⟩
    exact
      { noEvents := by rw [portEffect_pending]; exact h.noEvents
        openFrame := hSeq.openFrame
        legalState := hSeq.legalState
        diagErrors := hErr.diag
        busyNoOverflow := hErr.busy }
  · have hKeeps := portEffect_keepsDecoder hi s
    exact h.congr (portEffect_pending i s) hKeeps.dstate hKeeps.hopen hKeeps.ferr

/-! ## The event stream (R114) -/

/-- The events recorded so far have the form of R114, with the open frame the one `HOPEN` names. -/
def StreamForm (s : State) : Prop := EvShape s.ev s.hopen

theorem rxClosed_streamForm : RxClosed (fun _ => True) StreamForm where
  dstate s d h := h
  escError s h := h
  raise s c h := h
  begins s t _ ho h := by
    obtain ⟨e, c, i, hs, -⟩ := hBegin_closed (t := t) ho
    rw [StreamForm, ho] at h
    rw [hs]
    exact .opened s.ev t h
  writes s t b _ ho h := by
    obtain ⟨e, c, i, d, hs, -⟩ := hWrite_open (b := b) ho
    rw [StreamForm, ho] at h
    rw [hs, StreamForm]
    dsimp only
    rw [ho]
    exact .wrote s.ev t b h
  ends s t _ ho h := by
    obtain ⟨c, i, n, hs⟩ := hEnd_open ho
    rw [StreamForm, ho] at h
    rw [hs]
    exact .closed s.ev t s.ferr h

theorem portEffect_streamForm {s : State} (i : Instr) (h : StreamForm s) : StreamForm (portEffect i s) := by
  obtain ⟨b, rfl⟩ | hi := rx_or_other i
  · exact rxClosed_streamForm.rx b h
  · have hKeeps := portEffect_keepsDecoder hi s
    rw [StreamForm, hKeeps.ev, hKeeps.hopen]
    exact h

theorem evShape_iff {s : State} (h : RxInv s) : EvShape s.ev s.dstate.frame ↔ StreamForm s := by
  rw [StreamForm, h.openFrame]

/-- Every operation of a port keeps the form of the event stream. -/
theorem portEffect_evShape {i : Instr} {s : State} (hf : s.fault = false) (h : RxInv s)
    (hEv : EvShape s.ev s.dstate.frame) : EvShape (portEffect i s).ev (portEffect i s).dstate.frame :=
  (evShape_iff (portEffect_rxInv hf h)).mpr (portEffect_streamForm i ((evShape_iff h).mp hEv))

/-- A frame is open exactly outside IDLE. -/
theorem RxInv.frame_eq_none_iff {s : State} (h : RxInv s) : s.dstate.frame = none ↔ s.dstate = .idle := by
  cases hd : s.dstate with
  | unused => exact absurd hd h.legalState
  | idle => exact iff_of_true rfl rfl
  | pay t => exact iff_of_false nofun nofun
  | esc t => exact iff_of_false nofun nofun

/-! ## The faults a port operation takes -/

/-- The recorded fault is as it was, or one of cause `c` was taken. -/
def FaultKeptOr (c : FaultCause) (s s' : State) : Prop :=
  (s'.fault = s.fault ∧ s'.faultCause = s.faultCause) ∨ (s'.fault = true ∧ s'.faultCause = some c)

theorem submit_faultCause (p : Nat) (r : TxRequest) (s : State) : (submit p r s).faultCause = s.faultCause := by
  cases hr : Store.read s.txReq p with
  | none => rw [submit_of_none hr]
  | some q => rw [submit_of_some hr]

theorem acquire_fault (p : Nat) (s : State) :
    (acquire p s).fault = s.fault ∧ (acquire p s).faultCause = s.faultCause := by
  cases hr : Store.read s.txReq p with
  | none => rw [acquire_of_noRequest hr]; exact ⟨rfl, rfl⟩
  | some r =>
    cases ho : s.txOwner with
    | none => rw [acquire_of_free ho hr]; exact ⟨rfl, rfl⟩
    | some q => rw [acquire_of_taken ho]; exact ⟨rfl, rfl⟩

/-- Only a consumer's read raises outside `RX` and `TX_EMIT`. -/
theorem portEffect_fault {i : Instr} (hRx : ∀ b, i ≠ .rx b) (hEmit : i ≠ .txEmit) (s : State) :
    FaultKeptOr .consumerContract s (portEffect i s) := by
  cases i with
  | rx b => exact absurd rfl (hRx b)
  | txEmit => exact absurd rfl hEmit
  | consume t => exact .inl ⟨State.setSlot_fault .., State.setSlot_faultCause ..⟩
  | rdbuf t k =>
    rw [portEffect]
    split_ifs
    · exact .inl ⟨rfl, rfl⟩
    · exact .inr ⟨rfl, rfl⟩
  | txSubmit p t payload => exact .inl ⟨submit_fault p _ s, submit_faultCause p _ s⟩
  | txAcquire p => exact .inl (acquire_fault p s)
  | _ => exact .inl ⟨rfl, rfl⟩

theorem encEffect_fault (a : EncAction) (s : State) : FaultKeptOr .badTxstate s (encEffect a s) := by
  cases a with
  | badstateNotype ph a c => exact .inr ⟨rfl, rfl⟩
  | badstateMarkip a c => exact .inr ⟨rfl, rfl⟩
  | mark t a c =>
    rw [encEffect]
    cases marker s.conf t with
    | nil => exact .inr ⟨rfl, rfl⟩
    | cons m ms => exact .inl ⟨rfl, rfl⟩
  | close t c => exact .inl (releaseLock_fault (s.emitWire s.conf.endByte))
  | _ => exact .inl ⟨rfl, rfl⟩

/-- In sequence no operation of a port raises PROTOCOL. -/
theorem portEffect_protocol {i : Instr} {s : State} (hf : s.fault = false) (h : Sequenced s)
    (hCause : (portEffect i s).faultCause = some .protocol) : s.faultCause = some .protocol := by
  obtain ⟨b, rfl⟩ | hRx := rx_or_other i
  · rw [← hCause, (rx_follows hf h b).cause]
  · by_cases hEmit : i = .txEmit
    · subst hEmit
      obtain ⟨-, hSame⟩ | ⟨-, hRaised⟩ := encEffect_fault (decodeEnc s.conf (txWord s)) s
      · exact hSame.symm.trans hCause
      · cases hRaised.symm.trans hCause
    · obtain ⟨-, hSame⟩ | ⟨-, hRaised⟩ := portEffect_fault hRx hEmit s
      · exact hSame.symm.trans hCause
      · cases hRaised.symm.trans hCause

/-- From legal registers of both paths the only fault a port operation takes is a consumer's. -/
theorem portEffect_fault_of_inv {i : Instr} {s : State} (hf : s.fault = false) (hRx : RxInv s) (hTx : TxInv s) :
    FaultKeptOr .consumerContract s (portEffect i s) := by
  obtain ⟨b, rfl⟩ | hi := rx_or_other i
  · have hFollows := rx_follows hf hRx.sequenced b
    exact .inl ⟨hFollows.fault, hFollows.cause⟩
  · by_cases hEmit : i = .txEmit
    · subst hEmit
      by_cases hp : s.txPhase = .idle
      · rw [portEffect_txEmit_idle hp]
        exact .inl ⟨rfl, rfl⟩
      · obtain ⟨t, p, -, hFlight⟩ := hTx.inFlight hp
        obtain ⟨hFault, hCause, -⟩ := txEmit_emitsNext hFlight
        exact .inl ⟨hFault, hCause⟩
    · exact portEffect_fault hi hEmit s

/-! ## Runs from construction -/

theorem rxInv_constructed (c : Config) : RxInv (State.constructed c) where
  noEvents := nofun
  openFrame := rfl
  legalState := nofun
  diagErrors := nofun
  busyNoOverflow := nofun

theorem evShape_constructed (c : Config) :
    EvShape (State.constructed c).ev (State.constructed c).dstate.frame := .empty

/-- An invariant of the port operations holds at the end of every sequence of them. -/
theorem execAll_induction {P : State → Prop} (hStep : ∀ i s s', i.isPort = true → P s → exec i s = .next s' → P s')
    {ops : List Instr} {s s' : State} (hPort : ∀ i ∈ ops, i.isPort = true) (hs : P s)
    (h : execAll ops s = .next s') : P s' := by
  induction ops generalizing s with
  | nil =>
    obtain rfl := Host.Outcome.next.inj h
    exact hs
  | cons i rest ih =>
    rw [execAll] at h
    cases hExec : exec i s with
    | next u =>
      rw [hExec] at h
      exact ih (fun j hj => hPort j (List.mem_cons_of_mem i hj)) (hStep i s u (hPort i List.mem_cons_self) hs hExec) h
    | fault r => rw [hExec] at h; cases h
    | refused r => rw [hExec] at h; cases h

/-- What R114 says of a state that a run reaches. -/
structure EventsSequenced (s : State) : Prop where
  registers : RxInv s
  stream : EvShape s.ev s.dstate.frame
  noProtocol : s.faultCause ≠ some .protocol

theorem exec_eventsSequenced {i : Instr} {s s' : State} (hPort : i.isPort = true) (h : EventsSequenced s)
    (hExec : exec i s = .next s') : EventsSequenced s' := by
  obtain ⟨hf, rfl⟩ := exec_port_eq_next hPort hExec
  exact ⟨portEffect_rxInv hf h.registers, portEffect_evShape hf h.registers h.stream,
    fun hCause => h.noProtocol (portEffect_protocol hf h.registers.sequenced hCause)⟩

/-- Settles O56: the invariant of the registers keeps every event in sequence, so the stream keeps its form; a run from
construction by induction. -/
theorem eventStreamIsSequenced : Obligations.EventStreamIsSequenced := by
  refine ⟨fun s s' i hPort h hEv hExec => ?_, fun c ops s' _ hPort hRun => ?_⟩
  · obtain ⟨hf, rfl⟩ := exec_port_eq_next hPort hExec
    have hInv := portEffect_rxInv (i := i) hf h
    exact ⟨hInv, portEffect_evShape hf h hEv, hInv.frame_eq_none_iff, portEffect_protocol hf h.sequenced⟩
  · obtain ⟨hInv, hEv, hCause⟩ := execAll_induction (P := EventsSequenced)
      (fun _ _ _ hp hs hx => exec_eventsSequenced hp hs hx) hPort
      ⟨rxInv_constructed c, evShape_constructed c, nofun⟩ hRun
    exact ⟨hEv, hInv.frame_eq_none_iff, hCause⟩

/-! ## One frame type's buffer (R24 to R28, R53) -/

theorem cap_lt {c : Config} (h : c.wf = true) (t : BufType) : cap c t < 2 ^ 32 := by
  cases t
  · exact (Config.wf_cfgCap h).2
  · exact (Config.wf_ipCap h).2

/-- Below a capacity of the configuration the write offset steps without wrapping. -/
theorem idx_succ_toNat {c : Config} (h : c.wf = true) {t : BufType} {i : Word} (hi : i.toNat < cap c t) :
    (i + 1).toNat = i.toNat + 1 := by
  have hCap := cap_lt h t
  rw [BitVec.toNat_add_of_lt (by simp; omega)]
  rfl

theorem SlotInv.begins {t : BufType} {s : State} (h : SlotInv t s) (ho : s.hopen = none) (u : FrameType) :
    SlotInv t (hBegin u s) := by
  have hConf : (hBegin u s).conf = s.conf :=
    hBegin_conf u s
  by_cases hu : u = .buf t
  · subst hu
    cases hr : (s.slot t).ready
    · have hBegun := beginBuf_of_free (t := t) ho hr
      have hSlot : (hBegin (.buf t) s).slot t = { s.slot t with idx := 0 } := by
        rw [hBegin, hBegun, State.setSlot_slot]
      constructor <;> rw [hSlot]
      · exact h.bufWf
      · rw [hConf]; exact h.bufBound
      · exact Nat.zero_le _
      · rw [hConf]; exact h.lenLe
      · exact h.delivered
      · exact fun _ _ => ⟨hr, fun i hi => absurd hi (Nat.not_lt_zero i)⟩
      · rw [hConf]; exact h.errClean
    · refine h.congr hConf ?_ ?_ <;> rw [hBegin, beginBuf_of_busy ho hr]
      · cases t <;> rfl
      · nofun
  · obtain ⟨e, c, i, hs, -⟩ := hBegin_closed (t := u) ho
    refine h.congr hConf (hBegin_slot_other hu s) fun hOpen _ => absurd ?_ hu
    rw [hs] at hOpen
    exact Option.some.inj hOpen

theorem SlotInv.append {t : BufType} {s : State} (h : SlotInv t s) (hc : s.conf.wf = true)
    (ho : s.hopen = some (.buf t)) (hb : s.ferr.busy = false) (hRoom : (s.slot t).idx.toNat < cap s.conf t)
    (b : Byte) : SlotInv t ((s.emitEv (.writeByte (.buf t) b)).appendByte t b) := by
  obtain ⟨hReady, hWritten⟩ := h.storing ho hb
  have hConf : ((s.emitEv (.writeByte (.buf t) b)).appendByte t b).conf = s.conf := by simp
  have hSucc := idx_succ_toNat hc hRoom
  constructor <;> rw [State.appendByte_slot, State.emitEv_slot]
  · exact Memory.write_wf _ b h.bufWf
  · rw [hConf]; exact Memory.write_bound h.bufBound hRoom
  · rw [hConf]; dsimp only; omega
  · rw [hConf]; exact h.lenLe
  · exact fun hr => absurd (hReady.symm.trans hr) nofun
  · refine fun _ _ => ⟨hReady, fun i hi => ?_⟩
    by_cases hLast : i = (s.slot t).idx.toNat
    · rw [hLast]
      simp [Memory.read_write_same]
    · rw [Memory.read_write_other _ b hLast]
      dsimp only at hi
      exact hWritten i (by omega)
  · rw [hConf]; exact h.errClean

theorem SlotInv.writes {t : BufType} {s : State} (h : SlotInv t s) (hc : s.conf.wf = true) {u : FrameType}
    (ho : s.hopen = some u) (b : Byte) : SlotInv t (hWrite u b s) := by
  have hConf : (hWrite u b s).conf = s.conf :=
    hWrite_conf u b s
  by_cases hu : u = .buf t
  · subst hu
    cases hb : s.ferr.busy
    · by_cases hRoom : (s.slot t).idx.toNat < cap s.conf t
      · rw [hWrite, writeBuf_of_room ho hb hRoom]
        exact h.append hc ho hb hRoom b
      · rw [hWrite, writeBuf_of_full ho hb hRoom] at hConf ⊢
        exact h.congr hConf (by simp) fun _ _ => ⟨ho, hb⟩
    · rw [hWrite, writeBuf_of_busy ho hb] at hConf ⊢
      exact h.congr hConf (by simp) fun _ hb' => absurd (hb.symm.trans hb') nofun
  · obtain ⟨e, c, i, d, hs, -⟩ := hWrite_open (b := b) ho
    refine h.congr hConf (hWrite_slot_other hu b s) fun hOpen _ => absurd ?_ hu
    rw [hs] at hOpen
    exact Option.some.inj (ho.symm.trans hOpen)

theorem SlotInv.ends_delivered {t : BufType} {s : State} (h : SlotInv t s) (ho : s.hopen = some (.buf t))
    (hd : delivers s.conf s.ferr = true) : SlotInv t (hEnd (.buf t) s) := by
  obtain ⟨hb, hClean⟩ := delivers_iff.mp hd
  obtain ⟨-, hWritten⟩ := h.storing ho hb
  have hConf : (hEnd (.buf t) s).conf = s.conf :=
    hEnd_conf (.buf t) s
  have hEnded := endBuf_of_delivered ho hd
  have hSlot : (hEnd (.buf t) s).slot t = { s.slot t with len := (s.slot t).idx, err := s.ferr, ready := true } := by
    rw [hEnd, hEnded, State.emitNotify_slot, State.setSlot_slot]
  have hClosed : (hEnd (.buf t) s).hopen = none := by
    rw [hEnd, hEnded, State.emitNotify_hopen, State.setSlot_hopen]
  constructor <;> rw [hSlot]
  · exact h.bufWf
  · rw [hConf]; exact h.bufBound
  · rw [hConf]; exact h.idxLe
  · rw [hConf]; exact h.idxLe
  · exact fun _ => hWritten
  · exact fun hOpen => absurd (hClosed.symm.trans hOpen) nofun
  · rw [hConf]
    exact fun hConf => ErrorSet.code_eq_zero.mp (hClean.resolve_right (by simp [hConf]))

theorem SlotInv.ends {t : BufType} {s : State} (h : SlotInv t s) {u : FrameType} (ho : s.hopen = some u) :
    SlotInv t (hEnd u s) := by
  obtain ⟨c, i, n, hs⟩ := hEnd_open ho
  have hClosed : (hEnd u s).hopen = none := by rw [hs]
  have hNotOpen : (hEnd u s).hopen = some (.buf t) → (hEnd u s).ferr.busy = false →
      s.hopen = some (.buf t) ∧ s.ferr.busy = false := fun hOpen => absurd (hClosed.symm.trans hOpen) nofun
  have hConf : (hEnd u s).conf = s.conf := by rw [hs]
  by_cases hu : u = .buf t
  · subst hu
    cases hd : delivers s.conf s.ferr
    · refine h.congr hConf ?_ hNotOpen
      rw [hEnd, endBuf_of_dropped ho hd]
      cases t <;> rfl
    · exact h.ends_delivered ho hd
  · exact h.congr hConf (hEnd_slot_other hu s) hNotOpen

/-- The slot's invariant under a well-formed configuration. -/
structure SlotLegal (t : BufType) (s : State) : Prop where
  confWf : s.conf.wf = true
  slot : SlotInv t s

theorem rxClosed_slotLegal (t : BufType) : RxClosed (fun _ => True) (SlotLegal t) where
  dstate s d h := ⟨h.confWf, h.slot.congr rfl (State.slot_dstate s d t) fun ho hb => ⟨ho, hb⟩⟩
  escError s h := ⟨h.confWf, h.slot.congr rfl (State.setEscError_slot s t) fun ho hb => ⟨ho, hb⟩⟩
  raise s c h := ⟨h.confWf, h.slot.congr rfl (State.raiseFault_slot s c t) fun ho hb => ⟨ho, hb⟩⟩
  begins s u _ ho h :=
    ⟨hBegin_conf _ s ▸ h.confWf, h.slot.begins ho u⟩
  writes s _ b _ ho h :=
    ⟨hWrite_conf _ b s ▸ h.confWf, h.slot.writes h.confWf ho b⟩
  ends s _ _ ho h :=
    ⟨hEnd_conf _ s ▸ h.confWf, h.slot.ends ho⟩

/-- A drain clears `READY_t`, of which the invariant asks nothing but the cells it promises. -/
theorem SlotInv.drained {t : BufType} {s s' : State} (h : SlotInv t s) (hKeeps : KeepsDecoder s s')
    (hSlot : s'.slot t = { s.slot t with ready := false }) : SlotInv t s' := by
  constructor <;> rw [hSlot]
  · exact h.bufWf
  · rw [hKeeps.conf]; exact h.bufBound
  · rw [hKeeps.conf]; exact h.idxLe
  · rw [hKeeps.conf]; exact h.lenLe
  · nofun
  · rw [hKeeps.hopen, hKeeps.ferr]
    exact fun ho hb => ⟨rfl, (h.storing ho hb).2⟩
  · rw [hKeeps.conf]; exact h.errClean

theorem portEffect_slotInv {i : Instr} {s : State} {t : BufType} (hc : s.conf.wf = true) (h : SlotInv t s) :
    SlotInv t (portEffect i s) := by
  obtain ⟨b, rfl⟩ | hi := rx_or_other i
  · exact ((rxClosed_slotLegal t).rx b ⟨hc, h⟩).slot
  · have hKeeps := portEffect_keepsDecoder hi s
    obtain hSlot | ⟨-, hSlot⟩ := portEffect_slot hi s t
    · exact h.congr hKeeps.conf hSlot (by rw [hKeeps.hopen, hKeeps.ferr]; exact fun ho hb => ⟨ho, hb⟩)
    · exact h.drained hKeeps hSlot

/-! ## The invariant of the block -/

/-- Settles O12: field by field, the value `State.constructed` gives it. -/
theorem constructionGivesTheResetState : Obligations.ConstructionGivesTheResetState := by
  refine ⟨rfl, fun c => ⟨rfl, rfl, rfl, ErrorSet.code_eq_zero.mpr rfl, fun t => ?_, rfl, rfl, fun _ => rfl,
    rfl, rfl, rfl, rfl, rfl, rfl, rfl, rfl, rfl, rfl, rfl⟩⟩
  cases t <;> exact ⟨rfl, rfl, rfl, ErrorSet.code_eq_zero.mpr rfl, fun _ => rfl⟩

theorem slotInv_constructed (c : Config) (t : BufType) : SlotInv t (State.constructed c) := by
  have hSlot : (State.constructed c).slot t = .reset := by cases t <;> rfl
  constructor <;> rw [hSlot]
  · exact slot_reset_wf
  · nofun
  · exact Nat.zero_le _
  · exact Nat.zero_le _
  · nofun
  · nofun
  · exact fun _ => rfl

theorem txInv_constructed (c : Config) : TxInv (State.constructed c) where
  ownerIdle := iff_of_true rfl rfl
  posLe := Nat.zero_le _
  ownerRequest := nofun
  markStart := nofun
  subLast := nofun
  reqWf := List.Pairwise.nil
  reqBound := nofun

/-- Settles O54: part by part, each at its reset value. -/
theorem invariantAtConstruction : Obligations.InvariantAtConstruction := by
  intro c hc
  exact ⟨hc, rxInv_constructed c, slotInv_constructed c .cfg, slotInv_constructed c .ip, txInv_constructed c, rfl⟩

/-- Every operation of a port keeps the invariant. -/
theorem exec_inv {i : Instr} {s s' : State} (hPort : i.isPort = true) (h : Inv s) (hExec : exec i s = .next s') :
    Inv s' := by
  have hTx := exec_txInv hPort h.tx hExec
  obtain ⟨hf, rfl⟩ := exec_port_eq_next hPort hExec
  refine ⟨by rw [portEffect_conf]; exact h.confWf, portEffect_rxInv hf h.rx, portEffect_slotInv h.confWf h.cfg,
    portEffect_slotInv h.confWf h.ip, hTx, ?_⟩
  obtain ⟨hFault, hCause⟩ | ⟨hFault, hCause⟩ := portEffect_fault_of_inv (i := i) hf h.rx h.tx
  · rw [hFault, hCause]
    exact h.onlyConsumerFault
  · rw [hFault, hCause]
    rfl

theorem isPort_of_decodePort {c : Config} {w : PortWord} {i : Instr} (h : decodePort c w = .ok i) :
    i.isPort = true := by
  unfold decodePort at h
  split at h
  case h_1 | h_2 | h_8 | h_9 => cases h; rfl
  case h_3 | h_4 =>
    split at h
    · cases h; rfl
    · cases h
  case h_5 | h_7 =>
    split at h
    · cases h; rfl
    · cases h
  case h_6 =>
    split at h
    · split at h
      · cases h; rfl
      · cases h
    · cases h

/-- The invariant asks of the pending words only that none is an event, and nothing of the answer. -/
theorem Inv.taken {s : State} (h : Inv s) {pending : List Presented} (hp : ∀ w ∈ pending, w ∈ s.pending) :
    Inv { s with pending := pending, reply := .none } where
  confWf := h.confWf
  rx := ⟨fun w hw => h.rx.noEvents w (hp w hw), h.rx.openFrame, h.rx.legalState, h.rx.diagErrors, h.rx.busyNoOverflow⟩
  cfg := h.cfg.congr rfl rfl fun ho hb => ⟨ho, hb⟩
  ip := h.ip.congr rfl rfl fun ho hb => ⟨ho, hb⟩
  tx := h.tx.congr rfl rfl
  onlyConsumerFault := h.onlyConsumerFault

/-- Settles O55: a step waits or runs a port operation, since no event is presented, and each keeps the invariant. -/
theorem stepKeepsTheInvariant : Obligations.StepKeepsTheInvariant := by
  intro s s' h hStep
  obtain ⟨-, -, ⟨-, rfl⟩ | ⟨w, before, after, hp, -, hTaken⟩⟩ := step_cases hStep
  · exact h
  have hMem : ∀ v ∈ before ++ after, v ∈ s.pending := by
    intro v hv
    rw [hp]
    simp only [List.mem_append, List.mem_cons] at hv ⊢
    tauto
  obtain ⟨pw, rfl⟩ : ∃ pw, w = .port pw := h.rx.noEvents w (by simp [hp])
  obtain ⟨ew, e, hw, -⟩ | ⟨i, hd, -, hExec⟩ := hTaken
  · cases hw
  · exact exec_inv (isPort_of_decodePort hd) (h.taken hMem) hExec

end Sys2Proof.Machine
end

section
/-! The content of a frame that is being stored (41_handler.md R138, R144), an undrained frame (20_memory.md R59), and
quiescent ends (70_reset_and_hazards.md R241). O57 to O60 from that. -/

namespace Sys2Proof.Machine

/-! ## The bytes of the open frame -/

theorem frameBytes_begin (ev : List Event) (t : FrameType) : frameBytes (ev ++ [.beginFrame t]) = [] := by
  simp [frameBytes]

theorem frameBytes_write (ev : List Event) (t : FrameType) (b : Byte) :
    frameBytes (ev ++ [.writeByte t b]) = frameBytes ev ++ [b] := by
  simp [frameBytes]

/-! ## The content of a stored frame (R138) -/

/-- The statement looks at the configuration, the open frame, `BUSY`, `OVF`, the offset, the cells and the events. -/
theorem StoredContent.congr {t : BufType} {s s' : State} (h : StoredContent t s) (hc : s'.conf = s.conf)
    (ho : s'.hopen = s.hopen) (hb : s'.ferr.busy = s.ferr.busy) (hv : s'.ferr.ovf = s.ferr.ovf)
    (hi : (s'.slot t).idx = (s.slot t).idx) (hm : (s'.slot t).buf = (s.slot t).buf) (he : s'.ev = s.ev) :
    StoredContent t s' := by
  rw [StoredContent, hc, ho, hb, hv, hi, hm, he]
  exact h

/-- Nothing is said while no frame of the type is open. -/
theorem StoredContent.of_not_open {t : BufType} {s : State} (h : s.hopen ≠ some (.buf t)) : StoredContent t s :=
  fun ho => absurd ho h

theorem StoredContent.begins {t : BufType} {s : State} (ho : s.hopen = none) (u : FrameType) :
    StoredContent t (hBegin u s) := by
  by_cases hu : u = .buf t
  · subst hu
    cases hr : (s.slot t).ready
    · rw [hBegin, beginBuf_of_free ho hr]
      intro _ _
      rw [State.setSlot_slot, State.setSlot_ev, State.setSlot_ferr, State.setSlot_conf, frameBytes_begin]
      exact ⟨(Nat.zero_min _).symm, iff_of_false nofun (Nat.not_lt_zero _), fun k hk => absurd hk (Nat.not_lt_zero k)⟩
    · rw [hBegin, beginBuf_of_busy ho hr]
      nofun
  · obtain ⟨e, c, i, hs, -⟩ := hBegin_closed (t := u) ho
    rw [hs]
    exact .of_not_open fun hOpen => hu (Option.some.inj hOpen)

/-- A byte is stored where there is room, so the frame's bytes up to it are all there. -/
theorem StoredContent.append {t : BufType} {s : State} (hc : s.conf.wf = true) (h : StoredContent t s)
    (ho : s.hopen = some (.buf t)) (hb : s.ferr.busy = false) (hRoom : (s.slot t).idx.toNat < cap s.conf t)
    (b : Byte) : StoredContent t ((s.emitEv (.writeByte (.buf t) b)).appendByte t b) := by
  obtain ⟨hIdx, hOvf, hCells⟩ := h ho hb
  have hLength : (s.slot t).idx.toNat = (frameBytes s.ev).length := by omega
  intro _ _
  simp only [State.appendByte_slot, State.emitEv_slot, State.appendByte_ev, State.emitEv_ev, State.appendByte_conf,
    State.emitEv_conf, State.appendByte_ferr, State.emitEv_ferr, frameBytes_write, List.length_append,
    List.length_singleton, idx_succ_toNat hc hRoom]
  refine ⟨by omega, ?_, fun k hk => ?_⟩
  · rw [hOvf]
    exact iff_of_false (by omega) (by omega)
  · by_cases hLast : k = (s.slot t).idx.toNat
    · rw [hLast, Memory.read_write_same, hLength, List.getElem?_concat_length]
    · rw [Memory.read_write_other _ b hLast, hCells k (by omega), List.getElem?_append_left (by omega)]

/-- A byte past the capacity is counted by `OVF` alone. -/
theorem StoredContent.overflow {t : BufType} {s : State} (h : StoredContent t s) (ho : s.hopen = some (.buf t))
    (hb : s.ferr.busy = false) (hFull : ¬ (s.slot t).idx.toNat < cap s.conf t) (b : Byte) :
    StoredContent t (s.emitEv (.writeByte (.buf t) b)).setOverflow := by
  obtain ⟨hIdx, -, hCells⟩ := h ho hb
  intro _ _
  simp only [State.setOverflow_slot, State.emitEv_slot, State.setOverflow_ev, State.emitEv_ev, State.setOverflow_conf,
    State.emitEv_conf, State.setOverflow_ferr, frameBytes_write, List.length_append, List.length_singleton]
  refine ⟨by omega, iff_of_true trivial (by omega), fun k hk => ?_⟩
  rw [hCells k hk, List.getElem?_append_left (by omega)]

theorem StoredContent.writes {t : BufType} {s : State} (hc : s.conf.wf = true) (h : StoredContent t s)
    {u : FrameType} (ho : s.hopen = some u) (b : Byte) : StoredContent t (hWrite u b s) := by
  by_cases hu : u = .buf t
  · subst hu
    cases hb : s.ferr.busy
    · by_cases hRoom : (s.slot t).idx.toNat < cap s.conf t
      · rw [hWrite, writeBuf_of_room ho hb hRoom]
        exact h.append hc ho hb hRoom b
      · rw [hWrite, writeBuf_of_full ho hb hRoom]
        exact h.overflow ho hb hRoom b
    · rw [hWrite, writeBuf_of_busy ho hb]
      exact fun _ hb' => absurd (hb.symm.trans hb') nofun
  · obtain ⟨e, c, i, d, hs, -⟩ := hWrite_open (b := b) ho
    rw [hs]
    exact .of_not_open fun hOpen => hu (Option.some.inj (ho.symm.trans hOpen))

/-- The stored content under a well-formed configuration. -/
structure ContentLegal (t : BufType) (s : State) : Prop where
  confWf : s.conf.wf = true
  content : StoredContent t s

theorem rxClosed_contentLegal (t : BufType) : RxClosed (fun _ => True) (ContentLegal t) where
  dstate s d h := ⟨h.confWf, h.content.congr rfl rfl rfl rfl (by simp) (by simp) rfl⟩
  escError s h := ⟨h.confWf, h.content.congr rfl rfl rfl rfl (by simp) (by simp) rfl⟩
  raise s c h := ⟨h.confWf, h.content.congr rfl rfl rfl rfl (by simp) (by simp) rfl⟩
  begins s u _ ho h := ⟨hBegin_conf _ s ▸ h.confWf, .begins ho u⟩
  writes s _ b _ ho h :=
    ⟨hWrite_conf _ b s ▸ h.confWf, h.content.writes h.confWf ho b⟩
  ends s _ _ ho h := by
    obtain ⟨c, i, n, hs⟩ := hEnd_open ho
    rw [hs]
    exact ⟨h.confWf, .of_not_open nofun⟩

/-- Every operation of a port keeps what the stored content says. -/
theorem portEffect_storedContent {i : Instr} {s : State} {t : BufType} (hc : s.conf.wf = true)
    (h : StoredContent t s) : StoredContent t (portEffect i s) := by
  obtain ⟨b, rfl⟩ | hi := rx_or_other i
  · exact ((rxClosed_contentLegal t).rx b ⟨hc, h⟩).content
  · obtain ⟨hConf, -, hOpen, hErr, hEv, -, -⟩ := portEffect_keepsDecoder hi s
    obtain hSlot | ⟨-, hSlot⟩ := portEffect_slot hi s t
    · exact h.congr hConf hOpen (by rw [hErr]) (by rw [hErr]) (by rw [hSlot]) (by rw [hSlot]) hEv
    · exact h.congr hConf hOpen (by rw [hErr]) (by rw [hErr]) (by rw [hSlot]) (by rw [hSlot]) hEv

/-- Settles O57: a begin event starts the count, a write event steps it or overflows, and nothing else counts. -/
theorem storedContentIsKept : Obligations.StoredContentIsKept := by
  intro s s' i t hc hPort h hExec
  obtain ⟨-, rfl⟩ := exec_port_eq_next hPort hExec
  exact portEffect_storedContent hc h

/-! ## A delivered frame (R144) -/

/-! The row an `RX` performs in IDLE, a payload and an escaped state, under the configuration `c` of the state. -/

theorem portEffect_rx_idle {c : Config} {s : State} (hc : s.conf = c) (hd : s.dstate = .idle) (b : Byte) :
    portEffect (.rx b) s = decEffect
      (if b = c.endByte then .idleEnd else if b = c.diagMarker then .idleDiag else if b = c.cfgMarker then .idleCfg
        else .idleOther b) s := by
  rw [portEffect, decodeDec_rxWord, hd, hc]

theorem portEffect_rx_pay {c : Config} {s : State} {t : FrameType} (hc : s.conf = c) (hd : s.dstate = .pay t)
    (b : Byte) :
    portEffect (.rx b) s = decEffect
      (if b = c.escByte then .payEsc t else if b = c.endByte then .payEnd t else .payLit t b) s := by
  rw [portEffect, decodeDec_rxWord, hd, hc]

theorem portEffect_rx_esc {c : Config} {s : State} {t : FrameType} (hc : s.conf = c) (hd : s.dstate = .esc t)
    (b : Byte) :
    portEffect (.rx b) s = decEffect
      (if b = c.escEnd then .escSubend t else if b = c.escEsc then .escSubesc t else .escBad t b) s := by
  rw [portEffect, decodeDec_rxWord, hd, hc]

theorem portEffect_rx_end {s : State} {t : FrameType} (hf : s.fault = false) (hc : s.conf.wf = true)
    (hd : s.dstate = .pay t) (ho : s.hopen = some t) :
    portEffect (.rx s.conf.endByte) s = { hEnd t s with dstate := .idle } := by
  rw [portEffect_rx_pay rfl hd, if_neg (Config.wf_end_esc hc), if_pos rfl, decEffect,
    State.andThen_running ((hEnd_fault_of_open ho).trans hf)]

/-- The delimiter that delivers a frame latches its offset and its errors. -/
theorem rx_end_delivers {s : State} {t : BufType} (hf : s.fault = false) (hc : s.conf.wf = true)
    (hd : s.dstate = .pay (.buf t)) (ho : s.hopen = some (.buf t)) (hDelivers : delivers s.conf s.ferr = true) :
    (portEffect (.rx s.conf.endByte) s).slot t =
        { s.slot t with len := (s.slot t).idx, err := s.ferr, ready := true } ∧
      (portEffect (.rx s.conf.endByte) s).notify = s.notify ++ [t] ∧
      (portEffect (.rx s.conf.endByte) s).diagOut = s.diagOut := by
  rw [portEffect_rx_end hf hc hd ho, State.slot_dstate, hEnd, endBuf_of_delivered ho hDelivers]
  exact ⟨by rw [State.emitNotify_slot, State.setSlot_slot], by simp, by simp⟩

/-- Settles O58: the offset latched counts the frame's bytes, and the cells below it hold them. -/
theorem deliveredFrameIsThePayload : Obligations.DeliveredFrameIsThePayload := by
  intro s t hc hf hd ho hb hClean hContent
  obtain ⟨hIdx, hOvf, hCells⟩ := hContent ho hb
  have hDelivers : delivers s.conf s.ferr = true :=
    delivers_iff.mpr ⟨hb, hClean.imp_left ErrorSet.code_eq_zero.mpr⟩
  obtain ⟨hSlot, -, -⟩ := rx_end_delivers hf hc hd ho hDelivers
  refine ⟨_, exec_rx_running hf _, ?_⟩
  rw [hSlot]
  refine ⟨rfl, rfl, hIdx, hCells, fun hEmpty => ?_⟩
  rw [hEmpty] at hOvf
  have hFits : ¬ cap s.conf t < (frameBytes s.ev).length := fun hlt => absurd (hOvf.mpr hlt) nofun
  dsimp only
  omega

/-! ## An undrained frame (R59) -/

/-- The slot of type `t` is `v`, and a frame of the type that is open is busy. -/
structure Undrained (t : BufType) (v : Slot) (s : State) : Prop where
  slot : s.slot t = v
  busy : s.hopen = some (.buf t) → s.ferr.busy = true

/-- While a buffer is not drained no event of any type writes its slot. -/
theorem rxClosed_undrained (t : BufType) {v : Slot} (hv : v.ready = true) :
    RxClosed (fun _ => True) (Undrained t v) where
  dstate s d h := ⟨(State.slot_dstate s d t).trans h.slot, h.busy⟩
  escError s h := ⟨(State.setEscError_slot s t).trans h.slot, h.busy⟩
  raise s c h := ⟨(State.raiseFault_slot s c t).trans h.slot, h.busy⟩
  begins s u _ ho h := by
    by_cases hu : u = .buf t
    · subst hu
      rw [hBegin, beginBuf_of_busy ho (by rw [h.slot, hv])]
      exact ⟨Eq.trans (by cases t <;> rfl) h.slot, fun _ => rfl⟩
    · obtain ⟨e, c, i, hs, -⟩ := hBegin_closed (t := u) ho
      refine ⟨(hBegin_slot_other hu s).trans h.slot, fun hOpen => absurd ?_ hu⟩
      rw [hs] at hOpen
      exact Option.some.inj hOpen
  writes s u b _ ho h := by
    by_cases hu : u = .buf t
    · subst hu
      rw [hWrite, writeBuf_of_busy ho (h.busy ho)]
      exact ⟨(State.emitEv_slot s _ t).trans h.slot, h.busy⟩
    · obtain ⟨e, c, i, d, hs, -⟩ := hWrite_open (b := b) ho
      refine ⟨(hWrite_slot_other hu b s).trans h.slot, fun hOpen => absurd ?_ hu⟩
      rw [hs] at hOpen
      exact Option.some.inj (ho.symm.trans hOpen)
  ends s u _ ho h := by
    obtain ⟨c, i, n, hs⟩ := hEnd_open ho
    refine ⟨?_, fun hOpen => by rw [hs] at hOpen; cases hOpen⟩
    by_cases hu : u = .buf t
    · subst hu
      have hDropped : delivers s.conf s.ferr = false := by simp [delivers, h.busy ho]
      rw [hEnd, endBuf_of_dropped ho hDropped]
      exact Eq.trans (by cases t <;> rfl) h.slot
    · exact (hEnd_slot_other hu s).trans h.slot

/-- Settles O59: a frame of the type that is open is busy, since one that is stored needs a free buffer; so an `RX`
keeps the slot, and of the other operations only the drain writes it. -/
theorem undrainedFrameStaysIntact : Obligations.UndrainedFrameStaysIntact := by
  intro s s' i t hInv hPort hr hExec
  obtain ⟨-, rfl⟩ := exec_port_eq_next hPort hExec
  obtain ⟨b, rfl⟩ | hi := rx_or_other i
  · have hUndrained : Undrained t (s.slot t) s := by
      refine ⟨rfl, fun ho => ?_⟩
      by_contra hb
      obtain ⟨hFree, -⟩ := (hInv.slotInv t).storing ho (by simpa using hb)
      exact absurd (hFree.symm.trans hr) nofun
    exact .inl ((rxClosed_undrained t hr).rx b hUndrained).slot
  · exact portEffect_slot hi s t

/-! ## Whole frames on both paths (R184, R114, R241) -/

/-- What holds on both paths in every state a run reaches, with the frames sent so far. -/
structure WholeFrames (sent : List TxRequest) (s : State) : Prop where
  tx : TxInv s
  rx : RxInv s
  wire : WireHolds sent s
  stream : EvShape s.ev s.dstate.frame

theorem wholeFrames_constructed (c : Config) : WholeFrames [] (State.constructed c) :=
  ⟨txInv_constructed c, rxInv_constructed c, wireHolds_constructed c, evShape_constructed c⟩

theorem exec_wholeFrames {i : Instr} {s s' : State} {sent : List TxRequest} (hPort : i.isPort = true)
    (h : WholeFrames sent s) (hExec : exec i s = .next s') :
    TxInv s' ∧ RxInv s' ∧ EvShape s'.ev s'.dstate.frame ∧
      (WireHolds sent s' ∨
        ∃ t, s.txType = some t ∧ WireHolds (sent ++ [{ frame := t, payload := s.txPayload }]) s') := by
  have hTx := exec_txInv hPort h.tx hExec
  have hWire := exec_wireHolds hPort h.tx h.wire hExec
  obtain ⟨hf, rfl⟩ := exec_port_eq_next hPort hExec
  exact ⟨hTx, portEffect_rxInv hf h.rx, portEffect_evShape hf h.rx h.stream, hWire⟩

/-- A run from a state with whole frames ends in one. -/
theorem isRun_wholeFrames {ops : List Instr} {s s' : State} (h : ∃ sent, WholeFrames sent s) (hRun : IsRun ops s s') :
    s'.conf = s.conf ∧ ∃ sent, WholeFrames sent s' := by
  induction ops generalizing s with
  | nil =>
    obtain rfl : s' = s := hRun
    exact ⟨rfl, h⟩
  | cons i rest ih =>
    obtain ⟨sent, hWhole⟩ := h
    obtain ⟨hPort, -, -, u, hExec, hRest⟩ := hRun
    obtain ⟨hTx, hRx, hEv, hWire⟩ := exec_wholeFrames hPort hWhole hExec
    have hNext : ∃ sent, WholeFrames sent u := by
      obtain hWire | ⟨t, -, hWire⟩ := hWire
      · exact ⟨_, hTx, hRx, hWire, hEv⟩
      · exact ⟨_, hTx, hRx, hWire, hEv⟩
    obtain ⟨hConf, hEnd⟩ := ih hNext hRest
    exact ⟨hConf.trans (exec_conf hExec), hEnd⟩

/-- In a quiescent state no frame is in flight and none is open. -/
theorem WholeFrames.quiescent {sent : List TxRequest} {s : State} (h : WholeFrames sent s) (hq : Quiescent s) :
    (s.wire = sent.flatMap fun r => wireFrame s.conf r.frame r.payload) ∧ EvShape s.ev none ∧ s.hopen = none ∧
      s.txOwner = none := by
  obtain ⟨-, hd, hp, -⟩ := hq
  have hWire : s.wire = sent.flatMap (fun r => wireFrame s.conf r.frame r.payload) ++ emittedBytes s := h.wire
  have hStream := h.stream
  have hOpen := h.rx.openFrame
  rw [emittedBytes_idle hp, List.append_nil] at hWire
  rw [hd] at hStream hOpen
  exact ⟨hWire, hStream, hOpen, h.tx.ownerIdle.mpr hp⟩

/-- Settles O60: the invariants of both paths together, kept by every operation; in a quiescent state they leave whole
frames only, and a run from construction reaches such a state. -/
theorem quiescentEndHoldsWholeFrames : Obligations.QuiescentEndHoldsWholeFrames := by
  refine ⟨fun s s' i sent hPort hTx hRx hWire hEv hExec => exec_wholeFrames hPort ⟨hTx, hRx, hWire, hEv⟩ hExec,
    fun s sent hTx hRx hWire hEv hq => (WholeFrames.mk hTx hRx hWire hEv).quiescent hq, ?_⟩
  rintro c ops s' - ⟨hRun, -⟩ hq
  obtain ⟨hConf, sent, hWhole⟩ := isRun_wholeFrames ⟨[], wholeFrames_constructed c⟩ hRun
  obtain ⟨hWire, hEv, hOpen, hOwner⟩ := hWhole.quiescent hq
  rw [hConf] at hWire
  exact ⟨⟨sent, hWire⟩, hEv, hOpen, hOwner⟩

end Sys2Proof.Machine
end

section
/-! The round trip (42_encoder.md R185, R237): the bytes of a frame arrive one by one, with other operations between
them; what holds while they do, byte by byte, and what the last one leaves. O51, O52 and O53 from that. -/

namespace Sys2Proof.Machine

/-! ## A sequence of operations, byte by byte -/

theorem rxBytes_rx (b : Byte) (ops : List Instr) : rxBytes (.rx b :: ops) = b :: rxBytes ops := rfl

theorem rxBytes_other {i : Instr} (h : ∀ b, i ≠ .rx b) (ops : List Instr) : rxBytes (i :: ops) = rxBytes ops := by
  cases i with
  | rx b => exact absurd rfl (h b)
  | _ => rfl

theorem mem_rxBytes {b : Byte} {ops : List Instr} (h : .rx b ∈ ops) : b ∈ rxBytes ops := by
  induction ops with
  | nil => cases h
  | cons i rest ih =>
    obtain ⟨c, rfl⟩ | hi := rx_or_other i
    · rw [rxBytes_rx]
      obtain hHead | hRest := List.mem_cons.mp h
      · rw [Instr.rx.inj hHead]; exact List.mem_cons_self
      · exact List.mem_cons_of_mem c (ih hRest)
    · rw [rxBytes_other hi]
      exact ih ((List.mem_cons.mp h).resolve_left fun hHead => hi b hHead.symm)

theorem rxBytes_rxs (bs : List Byte) : rxBytes (rxs bs) = bs := by
  induction bs with
  | nil => rfl
  | cons b rest ih => exact congrArg (b :: ·) ih

/-- `ops` are port operations that lead from `s` to `s'` without a fault, present the bytes `bs` and end with the last
of them; where `quiet` holds none of them is a drain. -/
structure Feeds (quiet : Prop) (ops : List Instr) (s s' : State) (bs : List Byte) : Prop where
  port : ∀ i ∈ ops, i.isPort = true
  noDrain : quiet → ∀ i ∈ ops, ∀ u, i ≠ .consume u
  bytes : rxBytes ops = bs
  last : ∀ i, ops.getLast? = some i → ∃ b, i = .rx b
  run : execAll ops s = .next s'
  running : s'.fault = false

theorem Feeds.tail {quiet : Prop} {i : Instr} {ops : List Instr} {s s' : State} {bs : List Byte}
    (h : Feeds quiet (i :: ops) s s' bs) :
    s.fault = false ∧ Feeds quiet ops (portEffect i s) s' (rxBytes ops) := by
  have hRun := h.run
  rw [execAll] at hRun
  cases hExec : exec i s with
  | next u =>
    rw [hExec] at hRun
    obtain ⟨hf, rfl⟩ := exec_port_eq_next (h.port i List.mem_cons_self) hExec
    refine ⟨hf, fun j hj => h.port j (List.mem_cons_of_mem i hj),
      fun hq j hj => h.noDrain hq j (List.mem_cons_of_mem i hj), rfl, fun j hj => h.last j ?_, hRun, h.running⟩
    rw [List.getLast?_cons, hj]
    rfl
  | fault r => rw [hExec] at hRun; cases hRun
  | refused r => rw [hExec] at hRun; cases hRun

/-- The operation is one that `quiet` allows and receives no byte. -/
def BetweenBytes (quiet : Prop) (i : Instr) : Prop := (∀ b, i ≠ .rx b) ∧ (quiet → ∀ u, i ≠ .consume u)

/-- What the operations between two bytes keep holds when the next byte arrives. -/
theorem Feeds.next {quiet : Prop} {P : State → Prop} (hP : ∀ i s, BetweenBytes quiet i → P s → P (portEffect i s))
    {ops : List Instr} {s s' : State} {b : Byte} {bs : List Byte} (h : Feeds quiet ops s s' (b :: bs)) (hs : P s) :
    ∃ u ops', P u ∧ u.fault = false ∧ Feeds quiet ops' (portEffect (.rx b) u) s' bs := by
  induction ops generalizing s with
  | nil => cases h.bytes
  | cons i rest ih =>
    obtain ⟨hf, hRest⟩ := h.tail
    obtain ⟨c, rfl⟩ | hi := rx_or_other i
    · obtain ⟨rfl, hBytes⟩ := List.cons.inj h.bytes
      exact ⟨s, rest, hs, hf, hBytes ▸ hRest⟩
    · have hBytes : rxBytes rest = b :: bs := (rxBytes_other hi rest).symm.trans h.bytes
      exact ih (hBytes ▸ hRest) (hP i s ⟨hi, fun hq => h.noDrain hq i List.mem_cons_self⟩ hs)

/-- After the last byte no operation is left. -/
theorem Feeds.done {quiet : Prop} {ops : List Instr} {s s' : State} (h : Feeds quiet ops s s' []) : s' = s := by
  cases hLast : ops.getLast? with
  | none =>
    have hRun := h.run
    rw [List.getLast?_eq_none_iff.mp hLast] at hRun
    exact (Host.Outcome.next.inj hRun).symm
  | some i =>
    obtain ⟨b, rfl⟩ := h.last i hLast
    have hMem := mem_rxBytes (List.mem_of_getLast? hLast)
    rw [h.bytes] at hMem
    cases hMem

/-! ## What holds while a frame arrives -/

/-- Before the first byte of a frame of type `t` nothing of the receive path has changed since `s₀`; where `free` holds
its buffer is free. -/
structure Waiting (free quiet : Prop) (s₀ : State) (t : FrameType) (s : State) : Prop where
  keeps : KeepsDecoder s₀ s
  ready : free → ∀ u, t = .buf u → (s.slot u).ready = false
  others : quiet → ∀ u, t ≠ .buf u → s.slot u = s₀.slot u

/-- The bytes `w` of a frame of type `t` have arrived since `s₀`, and no error but `OVF` of a full buffer or, unless
`free` holds, `BUSY`. -/
structure Receiving (free quiet : Prop) (s₀ : State) (t : FrameType) (w : List Byte) (s : State) : Prop where
  conf : s.conf = s₀.conf
  hopen : s.hopen = some t
  busy : free → s.ferr.busy = false
  esc : s.ferr.esc = false
  ovf : t = .diag → s.ferr.ovf = false
  ev : s.ev = s₀.ev ++ .beginFrame t :: w.map (.writeByte t)
  notify : s.notify = s₀.notify
  diagOut : s.diagOut = s₀.diagOut ++ if t = .diag then w else []
  content : ∀ u, t = .buf u → StoredContent u s
  others : quiet → ∀ u, t ≠ .buf u → s.slot u = s₀.slot u

theorem KeepsDecoder.trans {s u v : State} (h : KeepsDecoder s u) (h' : KeepsDecoder u v) : KeepsDecoder s v :=
  ⟨h'.conf.trans h.conf, h'.dstate.trans h.dstate, h'.hopen.trans h.hopen, h'.ferr.trans h.ferr, h'.ev.trans h.ev,
    h'.diagOut.trans h.diagOut, h'.notify.trans h.notify⟩

theorem portEffect_slot_quiet {quiet : Prop} {i : Instr} (hi : BetweenBytes quiet i) (hq : quiet) (s : State)
    (t : BufType) : (portEffect i s).slot t = s.slot t :=
  (portEffect_slot hi.1 s t).resolve_right fun h => hi.2 hq t h.1

theorem portEffect_ready {i : Instr} (hi : ∀ b, i ≠ .rx b) {s : State} {t : BufType}
    (h : (s.slot t).ready = false) : ((portEffect i s).slot t).ready = false := by
  obtain hSlot | ⟨-, hSlot⟩ := portEffect_slot hi s t
  · rw [hSlot, h]
  · rw [hSlot]

section Arrival

variable {free quiet : Prop} {s₀ : State} {t : FrameType} {w : List Byte} {s : State}

theorem Waiting.between {i : Instr} (hi : BetweenBytes quiet i) (h : Waiting free quiet s₀ t s) :
    Waiting free quiet s₀ t (portEffect i s) where
  keeps := h.keeps.trans (portEffect_keepsDecoder hi.1 s)
  ready hFree u hu := portEffect_ready hi.1 (h.ready hFree u hu)
  others hq u hu := (portEffect_slot_quiet hi hq s u).trans (h.others hq u hu)

theorem Receiving.between (hc : s₀.conf.wf = true) {i : Instr} (hi : BetweenBytes quiet i)
    (h : Receiving free quiet s₀ t w s) : Receiving free quiet s₀ t w (portEffect i s) := by
  obtain ⟨hConf, -, hOpen, hErr, hEv, hDiag, hNotify⟩ := portEffect_keepsDecoder hi.1 s
  exact
    { conf := hConf.trans h.conf
      hopen := hOpen.trans h.hopen
      busy := by rw [hErr]; exact h.busy
      esc := by rw [hErr]; exact h.esc
      ovf := by rw [hErr]; exact h.ovf
      ev := hEv.trans h.ev
      notify := hNotify.trans h.notify
      diagOut := hDiag.trans h.diagOut
      content := fun u hu => portEffect_storedContent (h.conf ▸ hc) (h.content u hu)
      others := fun hq u hu => (portEffect_slot_quiet hi hq s u).trans (h.others hq u hu) }

theorem Receiving.dstate (d : DState) (h : Receiving free quiet s₀ t w s) :
    Receiving free quiet s₀ t w { s with dstate := d } where
  conf := h.conf
  hopen := h.hopen
  busy := h.busy
  esc := h.esc
  ovf := h.ovf
  ev := h.ev
  notify := h.notify
  diagOut := h.diagOut
  content u hu := (h.content u hu).congr rfl rfl rfl rfl (by simp) (by simp) rfl
  others hq u hu := (State.slot_dstate s d u).trans (h.others hq u hu)

/-- Where the buffer is free a begin event leaves no error. -/
theorem hBegin_ferr_of_free (ho : s.hopen = none) (hr : ∀ u, t = .buf u → (s.slot u).ready = false) :
    (hBegin t s).ferr = .empty := by
  cases t with
  | diag => rw [hBegin, beginDiag_of_closed ho]
  | buf u => rw [hBegin, beginBuf_of_free ho (hr u rfl), State.setSlot_ferr]

theorem Waiting.begins (hClosed : s₀.hopen = none) (d : DState) (h : Waiting free quiet s₀ t s) :
    Receiving free quiet s₀ t [] (hBegin t { s with dstate := d }) := by
  have ho : ({ s with dstate := d } : State).hopen = none := h.keeps.hopen.trans hClosed
  have hOthers : quiet → ∀ u, t ≠ .buf u → (hBegin t { s with dstate := d }).slot u = s₀.slot u := fun hq u hu =>
    ((hBegin_slot_other hu _).trans (State.slot_dstate s d u)).trans (h.others hq u hu)
  have hFree : free → (hBegin t { s with dstate := d }).ferr = .empty := fun hFree =>
    hBegin_ferr_of_free ho fun u hu => by rw [State.slot_dstate]; exact h.ready hFree u hu
  have hContent : ∀ u, t = .buf u → StoredContent u (hBegin t { s with dstate := d }) := fun u _ => .begins ho t
  obtain ⟨e, c, i, hs, hErr⟩ := hBegin_closed (t := t) ho
  rw [hs] at hOthers hFree hContent ⊢
  exact
    { conf := h.keeps.conf
      hopen := rfl
      busy := fun hf => by rw [hFree hf]; rfl
      esc := by obtain rfl | ⟨rfl, -⟩ := hErr <;> rfl
      ovf := fun _ => by obtain rfl | ⟨rfl, -⟩ := hErr <;> rfl
      ev := congrArg (· ++ [Event.beginFrame t]) h.keeps.ev
      notify := h.keeps.notify
      diagOut := by rw [ite_self, List.append_nil]; exact h.keeps.diagOut
      content := hContent
      others := hOthers }

theorem hWrite_diagOut {b : Byte} (ho : s.hopen = some t) :
    (hWrite t b s).diagOut = s.diagOut ++ if t = .diag then [b] else [] := by
  cases t with
  | diag => rw [hWrite, writeDiag_of_open ho, if_pos rfl]
  | buf t =>
    rw [if_neg nofun, List.append_nil, hWrite]
    cases hb : s.ferr.busy
    · by_cases hRoom : (s.slot t).idx.toNat < cap s.conf t
      · rw [writeBuf_of_room ho hb hRoom]
        simp
      · rw [writeBuf_of_full ho hb hRoom]
        rfl
    · rw [writeBuf_of_busy ho hb]
      rfl

theorem Receiving.writes (hc : s₀.conf.wf = true) (h : Receiving free quiet s₀ t w s) (b : Byte) :
    Receiving free quiet s₀ t (w ++ [b]) (hWrite t b s) := by
  have hDiag := hWrite_diagOut (b := b) h.hopen
  have hContent : ∀ u, t = .buf u → StoredContent u (hWrite t b s) := fun u hu =>
    (h.content u hu).writes (h.conf ▸ hc) h.hopen b
  have hOthers : quiet → ∀ u, t ≠ .buf u → (hWrite t b s).slot u = s₀.slot u := fun hq u hu =>
    (hWrite_slot_other hu b s).trans (h.others hq u hu)
  obtain ⟨e, c, i, d, hs, hErr⟩ := hWrite_open (b := b) h.hopen
  rw [hs] at hDiag hContent hOthers ⊢
  exact
    { conf := h.conf
      hopen := h.hopen
      busy := fun hf => by obtain rfl | ⟨rfl, -⟩ := hErr <;> exact h.busy hf
      esc := by obtain rfl | ⟨rfl, -⟩ := hErr <;> exact h.esc
      ovf := fun ht => by
        obtain rfl | ⟨-, -, hBuffered⟩ := hErr
        · exact h.ovf ht
        · exact absurd ht hBuffered
      ev := by rw [h.ev]; simp
      notify := h.notify
      diagOut := by
        rw [hDiag, h.diagOut, List.append_assoc]
        split <;> rfl
      content := hContent
      others := hOthers }

/-! ## The bytes of a payload -/

/-- Bytes `w` have arrived and the decoder is in state `d`. -/
def Arrived (free quiet : Prop) (s₀ : State) (t : FrameType) (w : List Byte) (d : DState) (s : State) : Prop :=
  Receiving free quiet s₀ t w s ∧ s.dstate = d

theorem Arrived.between (hc : s₀.conf.wf = true) {d : DState} (i : Instr) (s : State) (hi : BetweenBytes quiet i)
    (h : Arrived free quiet s₀ t w d s) : Arrived free quiet s₀ t w d (portEffect i s) :=
  ⟨h.1.between hc hi, (portEffect_keepsDecoder hi.1 s).dstate.trans h.2⟩

theorem hWrite_dstate {b : Byte} (ho : s.hopen = some t) : (hWrite t b s).dstate = s.dstate := by
  obtain ⟨e, c, i, d, hs, -⟩ := hWrite_open (b := b) ho
  rw [hs]

theorem Arrived.literal (hc : s₀.conf.wf = true) (h : Arrived free quiet s₀ t w (.pay t) s) {b : Byte}
    (hEnd : b ≠ s₀.conf.endByte) (hEsc : b ≠ s₀.conf.escByte) :
    Arrived free quiet s₀ t (w ++ [b]) (.pay t) (portEffect (.rx b) s) := by
  obtain ⟨hs, hd⟩ := h
  have hEffect : portEffect (.rx b) s = hWrite t b s := by
    rw [portEffect_rx_pay hs.conf hd, if_neg hEsc, if_neg hEnd, decEffect]
  rw [hEffect]
  exact ⟨hs.writes hc b, (hWrite_dstate hs.hopen).trans hd⟩

theorem Arrived.introducer (h : Arrived free quiet s₀ t w (.pay t) s) :
    Arrived free quiet s₀ t w (.esc t) (portEffect (.rx s₀.conf.escByte) s) := by
  obtain ⟨hs, hd⟩ := h
  have hEffect : portEffect (.rx s₀.conf.escByte) s = { s with dstate := .esc t } := by
    rw [portEffect_rx_pay hs.conf hd, if_pos rfl, decEffect]
  rw [hEffect]
  exact ⟨hs.dstate _, rfl⟩

/-- After the introducer the substitute of a byte delivers that byte. -/
theorem Arrived.substitute (hc : s₀.conf.wf = true) (h : Arrived free quiet s₀ t w (.esc t) s) (hf : s.fault = false)
    {b subst : Byte} (hb : escape s₀.conf b = [s₀.conf.escByte, subst]) :
    Arrived free quiet s₀ t (w ++ [b]) (.pay t) (portEffect (.rx subst) s) := by
  obtain ⟨hs, hd⟩ := h
  have hEffect : portEffect (.rx subst) s = { hWrite t b s with dstate := .pay t } := by
    rw [portEffect_rx_esc hs.conf hd]
    by_cases hEnd : b = s₀.conf.endByte
    · obtain rfl : s₀.conf.escEnd = subst := by simpa [hEnd, escape_end] using hb
      rw [if_pos rfl, decEffect, hs.conf, ← hEnd, hWrite_andThen_of_open hf hs.hopen]
    · obtain hEsc | hEsc := eq_or_ne b s₀.conf.escByte
      · obtain rfl : s₀.conf.escEsc = subst := by
          rw [hEsc, escape_esc (hEsc ▸ hEnd)] at hb
          simpa using hb
        rw [if_neg (Config.wf_subst hc).symm, if_pos rfl, decEffect, hs.conf, ← hEsc,
          hWrite_andThen_of_open hf hs.hopen]
      · simp [escape_literal hEnd hEsc] at hb
  rw [hEffect]
  exact ⟨(hs.writes hc b).dstate _, rfl⟩

/-- A byte goes out as it is, or as the introducer and a substitute. -/
theorem escape_cases (c : Config) (b : Byte) :
    (b ≠ c.endByte ∧ b ≠ c.escByte ∧ escape c b = [b]) ∨ ∃ subst, escape c b = [c.escByte, subst] := by
  by_cases hEnd : b = c.endByte
  · rw [hEnd]
    exact .inr ⟨_, escape_end c⟩
  · by_cases hEsc : b = c.escByte
    · rw [hEsc] at hEnd ⊢
      exact .inr ⟨_, escape_esc hEnd⟩
    · exact .inl ⟨hEnd, hEsc, escape_literal hEnd hEsc⟩

/-- The one or two bytes of an escaped payload byte deliver it. -/
theorem receive_byte (hc : s₀.conf.wf = true) {ops : List Instr} {s' : State} {b : Byte} {bs : List Byte}
    (h : Arrived free quiet s₀ t w (.pay t) s) (hFeeds : Feeds quiet ops s s' (escape s₀.conf b ++ bs)) :
    ∃ u ops', Arrived free quiet s₀ t (w ++ [b]) (.pay t) u ∧ Feeds quiet ops' u s' bs := by
  obtain ⟨hEnd, hEsc, hb⟩ | ⟨subst, hb⟩ := escape_cases s₀.conf b
  · rw [hb] at hFeeds
    obtain ⟨u, ops', hu, -, hRest⟩ := hFeeds.next (Arrived.between hc) h
    exact ⟨_, ops', hu.literal hc hEnd hEsc, hRest⟩
  · rw [hb] at hFeeds
    obtain ⟨u, ops', hu, -, hRest⟩ := hFeeds.next (Arrived.between hc) h
    obtain ⟨v, ops'', hv, hf, hRest⟩ := hRest.next (Arrived.between hc) hu.introducer
    exact ⟨_, ops'', hv.substitute hc hf hb, hRest⟩

/-- An escaped payload delivers the payload. -/
theorem receive_payload (hc : s₀.conf.wf = true) {ops : List Instr} {s' : State} {payload bs : List Byte}
    (h : Arrived free quiet s₀ t w (.pay t) s)
    (hFeeds : Feeds quiet ops s s' (payload.flatMap (escape s₀.conf) ++ bs)) :
    ∃ u ops', Arrived free quiet s₀ t (w ++ payload) (.pay t) u ∧ Feeds quiet ops' u s' bs := by
  induction payload generalizing w s ops with
  | nil => exact ⟨s, ops, by rwa [List.append_nil], hFeeds⟩
  | cons b rest ih =>
    rw [List.flatMap_cons, List.append_assoc] at hFeeds
    obtain ⟨u, ops', hu, hRest⟩ := receive_byte hc h hFeeds
    rw [List.append_cons]
    exact ih hu hRest

/-- A payload and the delimiter: the state the delimiter arrives in, with the whole payload received. -/
theorem receive_body (hc : s₀.conf.wf = true) {ops : List Instr} {s' : State} {payload : List Byte}
    (h : Arrived free quiet s₀ t w (.pay t) s)
    (hFeeds : Feeds quiet ops s s' (payload.flatMap (escape s₀.conf) ++ [s₀.conf.endByte])) :
    ∃ u, Arrived free quiet s₀ t (w ++ payload) (.pay t) u ∧ u.fault = false ∧
      s' = portEffect (.rx u.conf.endByte) u := by
  obtain ⟨u, ops', hu, hRest⟩ := receive_payload hc h hFeeds
  obtain ⟨v, ops'', hv, hf, hRest⟩ := hRest.next (Arrived.between hc) hu
  exact ⟨v, hv, hf, by rw [hv.1.conf]; exact hRest.done⟩

/-! ## The first byte of a frame -/

/-- The marker of a type that has one opens its frame (R102, R103). -/
theorem receive_marker (hc : s₀.conf.wf = true) (hd : s₀.dstate = .idle) (ho : s₀.hopen = none) {ops : List Instr}
    {s' : State} {m : Byte} {bs : List Byte} (hm : marker s₀.conf t = [m]) (h : Waiting free quiet s₀ t s)
    (hFeeds : Feeds quiet ops s s' (m :: bs)) :
    ∃ u ops', Arrived free quiet s₀ t [] (.pay t) u ∧ Feeds quiet ops' u s' bs := by
  obtain ⟨u, ops', hu, -, hRest⟩ := hFeeds.next (fun _ _ hi => Waiting.between hi) h
  have hEffect : portEffect (.rx m) u = hBegin t { u with dstate := .pay t } := by
    rw [portEffect_rx_idle hu.keeps.conf (hu.keeps.dstate.trans hd)]
    rcases t with _ | (_ | _)
    · obtain rfl : s₀.conf.diagMarker = m := by simpa [marker] using hm
      rw [if_neg (Config.wf_end_diag hc).symm, if_pos rfl, decEffect]
    · obtain rfl : s₀.conf.cfgMarker = m := by simpa [marker] using hm
      rw [if_neg (Config.wf_end_cfg hc).symm, if_neg (Config.wf_diag_cfg hc).symm, if_pos rfl, decEffect]
    · cases hm
  rw [hEffect] at hRest
  exact ⟨_, ops', ⟨hu.begins ho _, (follows_begin (hu.keeps.hopen.trans ho) t).dstate⟩, hRest⟩

/-- Any other byte opens an IP frame and is its first payload byte (R104). -/
theorem receive_first (hc : s₀.conf.wf = true) (hd : s₀.dstate = .idle) (ho : s₀.hopen = none) {ops : List Instr}
    {s' : State} {b : Byte} {bs : List Byte} (hb : s₀.conf.isIdleOther b = true)
    (h : Waiting free quiet s₀ (.buf .ip) s) (hFeeds : Feeds quiet ops s s' (b :: bs)) :
    ∃ u ops', Arrived free quiet s₀ (.buf .ip) [b] (.pay (.buf .ip)) u ∧ Feeds quiet ops' u s' bs := by
  obtain ⟨u, ops', hu, hf, hRest⟩ := hFeeds.next (fun _ _ hi => Waiting.between hi) h
  obtain ⟨hEnd, hDiag, hCfg⟩ := Config.isIdleOther_iff.mp hb
  have hBegun := follows_begin (hu.keeps.hopen.trans ho) (.buf .ip)
  have hEffect : portEffect (.rx b) u =
      hWrite (.buf .ip) b (hBegin (.buf .ip) { u with dstate := .pay (.buf .ip) }) := by
    rw [portEffect_rx_idle hu.keeps.conf (hu.keeps.dstate.trans hd), if_neg hEnd, if_neg hDiag,
      if_neg hCfg, decEffect, State.andThen_running (hBegun.fault.trans hf)]
  rw [hEffect] at hRest
  exact ⟨_, ops', ⟨(hu.begins ho _).writes hc b, (hWrite_dstate hBegun.hopen).trans hBegun.dstate⟩, hRest⟩

/-! ## A frame received whole -/

theorem marker_cons_of_ne_ip (c : Config) {t : FrameType} (h : t ≠ .buf .ip) : ∃ m, marker c t = [m] :=
  ⟨_, marker_of_ne_ip c h⟩

theorem escByte_isIdleOther {c : Config} (hc : c.wf = true) : c.isIdleOther c.escByte = true :=
  Config.isIdleOther_iff.mpr ⟨(Config.wf_end_esc hc).symm, Config.wf_esc_diag hc, Config.wf_esc_cfg hc⟩

/-- An IP payload is received whole where its first byte is none IDLE or a payload state treats specially (R185). -/
def FirstByteSafe (c : Config) (t : FrameType) (payload : List Byte) : Prop :=
  t = .buf .ip → ∃ b rest, payload = b :: rest ∧ c.isIdleOther b = true ∧ b ≠ c.escByte

/-- The bytes of a frame bring its payload, up to the delimiter. -/
theorem receive_frame (hc : s₀.conf.wf = true) (hd : s₀.dstate = .idle) (ho : s₀.hopen = none) {ops : List Instr}
    {s' : State} {payload : List Byte} (hFirst : FirstByteSafe s₀.conf t payload)
    (h : Waiting free quiet s₀ t s) (hFeeds : Feeds quiet ops s s' (wireFrame s₀.conf t payload)) :
    ∃ u, Arrived free quiet s₀ t payload (.pay t) u ∧ u.fault = false ∧ s' = portEffect (.rx u.conf.endByte) u := by
  rw [wireFrame, List.append_assoc] at hFeeds
  by_cases hIp : t = .buf .ip
  · subst hIp
    obtain ⟨b, rest, rfl, hb, hEsc⟩ := hFirst rfl
    have hEnd := (Config.isIdleOther_iff.mp hb).1
    rw [List.flatMap_cons, escape_literal hEnd hEsc] at hFeeds
    obtain ⟨u, ops', hu, hRest⟩ := receive_first hc hd ho hb h hFeeds
    exact receive_body hc hu hRest
  · obtain ⟨m, hm⟩ := marker_cons_of_ne_ip s₀.conf hIp
    rw [hm] at hFeeds
    obtain ⟨u, ops', hu, hRest⟩ := receive_marker hc hd ho hm h hFeeds
    exact receive_body hc hu hRest

theorem frameBytes_of_frame (ev : List Event) (t : FrameType) (w : List Byte) :
    frameBytes (ev ++ .beginFrame t :: w.map (.writeByte t)) = w := by
  induction w using List.reverseRecOn with
  | nil => exact frameBytes_begin ev t
  | append_singleton w b ih =>
    rw [List.map_append, ← List.cons_append, ← List.append_assoc]
    exact (frameBytes_write _ t b).trans (by rw [ih])

/-- A frame that fits a free buffer arrives without an error. -/
theorem Receiving.ferr_empty (h : Receiving free quiet s₀ t w s) (hFree : free)
    (hFits : ∀ u, t = .buf u → w.length ≤ cap s₀.conf u) : s.ferr = .empty := by
  have hOvf : s.ferr.ovf = false := by
    cases t with
    | diag => exact h.ovf rfl
    | buf u =>
      obtain ⟨-, hOvf, -⟩ := h.content u rfl h.hopen (h.busy hFree)
      rw [h.ev, frameBytes_of_frame, h.conf] at hOvf
      have := hFits u rfl
      rw [← Bool.not_eq_true, hOvf]
      omega
  have hErr : s.ferr = ⟨s.ferr.esc, s.ferr.ovf, s.ferr.busy⟩ := rfl
  rw [hErr, h.esc, hOvf, h.busy hFree]
  rfl

end Arrival

/-- What the law says of a state in which a frame has been received since `s₀`; where `quiet` holds, also that the other
type's slot is as it was. -/
structure Received (quiet : Prop) (s₀ : State) (t : FrameType) (payload : List Byte) (s' : State) : Prop where
  dstate : s'.dstate = .idle
  hopen : s'.hopen = none
  ev : s'.ev = s₀.ev ++ .beginFrame t :: payload.map (.writeByte t) ++ [.endFrame t .empty]
  diag : t = .diag → s'.diagOut = s₀.diagOut ++ payload ∧ s'.notify = s₀.notify
  slot : ∀ u, t = .buf u → (s'.slot u).ready = true ∧ (s'.slot u).len.toNat = payload.length ∧
    (s'.slot u).err = .empty ∧ ∀ k, k < payload.length → (s'.slot u).buf.read k = payload[k]?
  streams : ∀ u, t = .buf u → s'.notify = s₀.notify ++ [u] ∧ s'.diagOut = s₀.diagOut
  others : quiet → ∀ u, t ≠ .buf u → s'.slot u = s₀.slot u

section Delimiter

variable {quiet : Prop} {s₀ s : State} {t : FrameType} {payload : List Byte}

/-- The delimiter of a frame of a buffered type that arrived clean delivers it. -/
theorem Arrived.delivered {u : BufType} (hc : s₀.conf.wf = true) (hf : s.fault = false)
    (h : Arrived True quiet s₀ (.buf u) payload (.pay (.buf u)) s) (hFits : payload.length ≤ cap s₀.conf u) :
    let s' := portEffect (.rx s.conf.endByte) s
    ((s'.slot u).ready = true ∧ (s'.slot u).len.toNat = payload.length ∧ (s'.slot u).err = .empty ∧
      ∀ k, k < payload.length → (s'.slot u).buf.read k = payload[k]?) ∧
    s'.notify = s₀.notify ++ [u] ∧ s'.diagOut = s₀.diagOut := by
  obtain ⟨hs, hd⟩ := h
  have hErr : s.ferr = .empty := hs.ferr_empty trivial fun v hv => by
    obtain rfl := FrameType.buf.inj hv
    exact hFits
  obtain ⟨hIdx, -, hCells⟩ := hs.content u rfl hs.hopen (hs.busy trivial)
  rw [hs.ev, frameBytes_of_frame, hs.conf, Nat.min_eq_left hFits] at hIdx
  rw [hs.ev, frameBytes_of_frame, hIdx] at hCells
  have hDelivers : delivers s.conf s.ferr = true := by rw [hErr]; rfl
  obtain ⟨hSlot, hNotify, hDiag⟩ := rx_end_delivers hf (hs.conf ▸ hc) hd hs.hopen hDelivers
  have hDiagOut := hs.diagOut
  rw [if_neg nofun, List.append_nil] at hDiagOut
  dsimp only
  rw [hSlot, hNotify, hDiag, hs.notify, hErr]
  exact ⟨⟨rfl, hIdx, rfl, hCells⟩, rfl, hDiagOut⟩

/-- The delimiter of a frame that arrived clean ends it. -/
theorem Arrived.received (hc : s₀.conf.wf = true) (hf : s.fault = false)
    (h : Arrived True quiet s₀ t payload (.pay t) s) (hFits : ∀ u, t = .buf u → payload.length ≤ cap s₀.conf u) :
    Received quiet s₀ t payload (portEffect (.rx s.conf.endByte) s) := by
  obtain ⟨hs, hd⟩ := h
  have hEffect := portEffect_rx_end hf (hs.conf ▸ hc) hd hs.hopen
  have hFollows := follows_end hf hs.hopen
  rw [State.andThen_running ((hEnd_fault_of_open hs.hopen).trans hf), ← hEffect,
    hs.ferr_empty trivial hFits] at hFollows
  refine
    { dstate := hFollows.dstate
      hopen := hFollows.hopen
      ev := by rw [hFollows.ev, hs.ev]
      diag := fun ht => ?_
      slot := fun u hu => ?_
      streams := fun u hu => ?_
      others := fun hq u hu => ?_ }
  · subst ht
    rw [hEffect, hEnd, endDiag_of_open hs.hopen]
    have hDiagOut := hs.diagOut
    rw [if_pos rfl] at hDiagOut
    exact ⟨hDiagOut, hs.notify⟩
  · subst hu
    exact (Arrived.delivered hc hf ⟨hs, hd⟩ (hFits u rfl)).1
  · subst hu
    exact (Arrived.delivered hc hf ⟨hs, hd⟩ (hFits u rfl)).2
  · rw [hEffect, State.slot_dstate, hEnd_slot_other hu, hs.others hq u hu]

end Delimiter

/-- The round trip, with whatever stands between the bytes. -/
theorem received_of_feeds {quiet : Prop} {s s' : State} {t : FrameType} {payload : List Byte} {ops : List Instr}
    (hc : s.conf.wf = true) (hd : s.dstate = .idle) (ho : s.hopen = none)
    (hFits : ∀ u, t = .buf u → payload.length ≤ cap s.conf u ∧ (s.slot u).ready = false)
    (hFirst : FirstByteSafe s.conf t payload) (hFeeds : Feeds quiet ops s s' (wireFrame s.conf t payload)) :
    Received quiet s t payload s' := by
  have hWaiting : Waiting True quiet s t s :=
    ⟨⟨rfl, rfl, rfl, rfl, rfl, rfl, rfl⟩, fun _ u hu => (hFits u hu).2, fun _ _ _ => rfl⟩
  obtain ⟨u, hu, hf, rfl⟩ := receive_frame hc hd ho hFirst hWaiting hFeeds
  exact hu.received hc hf fun v hv => (hFits v hv).1

/-- Settles O52: the operations between the bytes keep what has arrived, and the last byte delivers it. -/
theorem roundTripUnderInterleaving : Obligations.RoundTripUnderInterleaving := by
  intro s s' t payload ops hc hd ho hFits hFirst hPort hBytes hLast hRun hf
  have hFeeds : Feeds False ops s s' (wireFrame s.conf t payload) :=
    ⟨hPort, False.elim, hBytes, fun i hi => ⟨_, Option.some.inj (hi.symm.trans hLast)⟩, hRun, hf⟩
  have hReceived := received_of_feeds hc hd ho hFits hFirst hFeeds
  refine ⟨hReceived.dstate, hReceived.hopen, hReceived.ev, fun ht => (hReceived.diag ht).1, fun u hu => ?_⟩
  obtain ⟨hReady, hLen, -, hCells⟩ := hReceived.slot u hu
  exact ⟨hReady, hLen, hCells, (hReceived.streams u hu).1⟩

/-! ## Bytes alone -/

/-- Bytes alone always run in sequence, and leave the transmit path. -/
theorem execAll_rxs {s : State} (hf : s.fault = false) (h : Sequenced s) (bs : List Byte) :
    ∃ s', execAll (rxs bs) s = .next s' ∧ s'.fault = false ∧ s'.txSide = s.txSide := by
  induction bs generalizing s with
  | nil => exact ⟨s, rfl, hf, rfl⟩
  | cons b rest ih =>
    obtain ⟨s', hRun, hf', hSide⟩ := ih ((rx_follows hf h b).fault.trans hf) (rx_sequenced hf h b)
    refine ⟨s', ?_, hf', hSide.trans (portEffect_rxFrame (i := .rx b) rfl s).txSide⟩
    rw [rxs, List.map_cons, execAll, exec_rx_running hf]
    exact hRun

theorem mem_rxs {i : Instr} {bs : List Byte} (h : i ∈ rxs bs) : ∃ b, i = .rx b := by
  obtain ⟨b, -, rfl⟩ := List.mem_map.mp h
  exact ⟨b, rfl⟩

theorem feeds_rxs {s s' : State} {bs : List Byte} (hRun : execAll (rxs bs) s = .next s') (hf : s'.fault = false) :
    Feeds True (rxs bs) s s' bs where
  port i hi := by
    obtain ⟨b, rfl⟩ := mem_rxs hi
    rfl
  noDrain _ i hi := by
    obtain ⟨b, rfl⟩ := mem_rxs hi
    nofun
  bytes := rxBytes_rxs bs
  last i hi := mem_rxs (List.mem_of_getLast? hi)
  run := hRun
  running := hf

/-- From IDLE with no frame open the decoder's registers are legal. -/
theorem sequenced_of_idle {s : State} (hd : s.dstate = .idle) (ho : s.hopen = none) : Sequenced s :=
  ⟨by rw [hd]; nofun, by rw [hd, ho]; rfl⟩

/-- Settles O51: the bytes alone run to their end, and what they bring is O52's law with nothing between them. -/
theorem roundTrip : Obligations.RoundTrip := by
  intro s t payload hc hf hd ho hFits hFirst
  obtain ⟨s', hRun, hf', hSide⟩ := execAll_rxs hf (sequenced_of_idle hd ho) (wireFrame s.conf t payload)
  have hReceived := received_of_feeds hc hd ho hFits hFirst (feeds_rxs hRun hf')
  refine ⟨s', hRun, hf', hReceived.dstate, hReceived.hopen, hSide, hReceived.ev, fun ht => ?_, fun u hu => ?_⟩
  · obtain ⟨hDiag, hNotify⟩ := hReceived.diag ht
    have hOther (u : BufType) : t ≠ .buf u := by rw [ht]; nofun
    exact ⟨hDiag, hReceived.others trivial .cfg (hOther _), hReceived.others trivial .ip (hOther _), hNotify⟩
  · obtain ⟨hReady, hLen, hErr, hCells⟩ := hReceived.slot u hu
    obtain ⟨hNotify, hDiag⟩ := hReceived.streams u hu
    exact ⟨hReady, hLen, hErr, hCells, hNotify, hDiag⟩

/-! ## The first byte of an IP payload (R237) -/

theorem execAll_empty_ip {s : State} (hf : s.fault = false) (hd : s.dstate = .idle) :
    execAll (rxs (wireFrame s.conf (.buf .ip) [])) s = .next s := by
  have hExec : exec (.rx s.conf.endByte) s = .next s := by
    rw [exec_rx_of_idle hd, if_pos rfl, exec_rxIdleEnd hf]
  change execAll [.rx s.conf.endByte] s = _
  rw [execAll, hExec]
  rfl

/-- The substitutes need no escape (WF3). -/
theorem escape_substitute {c : Config} (hc : c.wf = true) {subst : Byte} (h : subst = c.escEnd ∨ subst = c.escEsc) :
    escape c subst = [subst] := by
  obtain rfl | rfl := h
  · exact escape_literal (Config.wf_escEnd hc).1 (Config.wf_escEnd hc).2
  · exact escape_literal (Config.wf_escEsc hc).1 (Config.wf_escEsc hc).2

/-- An IP frame whose payload begins with a byte to escape is, on the wire, that of the introducer, the substitute and
the rest. -/
theorem wireFrame_ip_escaped {c : Config} (hc : c.wf = true) {b : Byte} (hb : b = c.endByte ∨ b = c.escByte)
    (rest : List Byte) :
    wireFrame c (.buf .ip) (b :: rest) = c.escByte ::
      (((if b = c.endByte then c.escEnd else c.escEsc) :: rest).flatMap (escape c) ++ [c.endByte]) := by
  rw [wireFrame, List.flatMap_cons, List.flatMap_cons]
  obtain rfl | rfl := hb
  · rw [if_pos rfl, escape_end, escape_substitute hc (.inl rfl)]
    rfl
  · have hEsc := (Config.wf_end_esc hc).symm
    rw [if_neg hEsc, escape_esc hEsc, escape_substitute hc (.inr rfl)]
    rfl

theorem receive_escaped_first {s : State} {b : Byte} {rest : List Byte} (hc : s.conf.wf = true) (hf : s.fault = false)
    (hd : s.dstate = .idle) (ho : s.hopen = none) (hb : b = s.conf.endByte ∨ b = s.conf.escByte) :
    ∃ s' e, execAll (rxs (wireFrame s.conf (.buf .ip) (b :: rest))) s = .next s' ∧
      s'.fault = false ∧ s'.dstate = .idle ∧ s'.hopen = none ∧
      s'.ev = s.ev ++ .beginFrame (.buf .ip) ::
        ([s.conf.escByte, if b = s.conf.endByte then s.conf.escEnd else s.conf.escEsc] ++ rest).map
          (.writeByte (.buf .ip)) ++ [.endFrame (.buf .ip) e] := by
  obtain ⟨s', hRun, hf', -⟩ := execAll_rxs hf (sequenced_of_idle hd ho) (wireFrame s.conf (.buf .ip) (b :: rest))
  have hFeeds := feeds_rxs hRun hf'
  rw [wireFrame_ip_escaped hc hb] at hFeeds
  have hWaiting : Waiting False True s (.buf .ip) s :=
    ⟨⟨rfl, rfl, rfl, rfl, rfl, rfl, rfl⟩, False.elim, fun _ _ _ => rfl⟩
  obtain ⟨v, ops, hv, hRest⟩ := receive_first hc hd ho (escByte_isIdleOther hc) hWaiting hFeeds
  obtain ⟨u, ⟨hu, hud⟩, huf, rfl⟩ := receive_body hc hv hRest
  have hFollows := follows_end huf hu.hopen
  rw [State.andThen_running ((hEnd_fault_of_open hu.hopen).trans huf),
    ← portEffect_rx_end huf (hu.conf ▸ hc) hud hu.hopen] at hFollows
  exact ⟨_, u.ferr, hRun, hf', hFollows.dstate, hFollows.hopen, by rw [hFollows.ev, hu.ev]; rfl⟩

/-- A marker needs no escape (WF1), so an IP payload that begins with it is the marker's frame. -/
theorem wireFrame_ip_marker {c : Config} {t : FrameType} {m : Byte} (hm : marker c t = [m]) (hEnd : m ≠ c.endByte)
    (hEsc : m ≠ c.escByte) (rest : List Byte) : wireFrame c (.buf .ip) (m :: rest) = wireFrame c t rest := by
  rw [wireFrame, wireFrame, hm, List.flatMap_cons, escape_literal hEnd hEsc]
  rfl

/-- Settles O53: the three collisions of R237, by the first byte. -/
theorem ipFirstByteCollision : Obligations.IpFirstByteCollision := by
  intro c hc
  refine ⟨?_, ?_, wireFrame_ip_marker rfl (Config.wf_end_diag hc).symm (Config.wf_esc_diag hc).symm,
    wireFrame_ip_marker rfl (Config.wf_end_cfg hc).symm (Config.wf_esc_cfg hc).symm⟩
  · rintro s rfl hf hd
    exact execAll_empty_ip hf hd
  · rintro s b rest rfl hf hd ho hb
    exact receive_escaped_first hc hf hd ho hb

end Sys2Proof.Machine
end
